-- ==== Sys2Proof/Word.lean ====
section
/-! DEFINITION. Word.lean: the sizes of value the machine holds (spec 00_scope.md R5, R7). All are unsigned. -/

namespace Sys2Proof

/-- An 8-bit value: a V register, a timer, a memory byte. -/
abbrev Byte := BitVec 8

/-- A 16-bit value: I, pc, a stack entry, an instruction word. -/
abbrev Word := BitVec 16

/-- A 4-bit unit of an instruction word (R11). -/
abbrev Nibble := BitVec 4

/-- The 12-bit address field NNN (R102). -/
abbrev Addr12 := BitVec 12

/-- The index of a V register: X or Y (R20, R102). -/
abbrev Reg := Fin 16

/-- The index of a key of the keypad (R34). -/
abbrev Key := Fin 16

end Sys2Proof
end

