-- ==== Sys2Proof/Syntax.lean ====
section
/-! DEFINITION. Syntax.lean: the 35 instructions, one constructor per row of spec/opcode_table.json, in its order
(30_encoding.md R107). X and Y are register indices, NN an 8-bit value, NNN a 12-bit address, N a row count 0 to 15. -/

namespace Sys2Proof

inductive Instr where
  | clearScreen
  | ret
  | executeMachineCode (nnn : Addr12)
  | jump (nnn : Addr12)
  | call (nnn : Addr12)
  | skipIfEqualValue (x : Reg) (nn : Byte)
  | skipIfNotEqualValue (x : Reg) (nn : Byte)
  | skipIfEqualRegister (x y : Reg)
  | storeValue (x : Reg) (nn : Byte)
  | addValue (x : Reg) (nn : Byte)
  | storeRegister (x y : Reg)
  | orRegister (x y : Reg)
  | andRegister (x y : Reg)
  | xorRegister (x y : Reg)
  | addRegister (x y : Reg)
  | subRegister (x y : Reg)
  | shiftRight (x y : Reg)
  | subRegisterReversed (x y : Reg)
  | shiftLeft (x y : Reg)
  | skipIfNotEqualRegister (x y : Reg)
  | storeIndex (nnn : Addr12)
  | jumpWithOffset (nnn : Addr12)
  | random (x : Reg) (nn : Byte)
  | drawSprite (x y : Reg) (n : Fin 16)
  | skipIfKeyPressed (x : Reg)
  | skipIfKeyNotPressed (x : Reg)
  | loadDelayTimer (x : Reg)
  | waitForKey (x : Reg)
  | setDelayTimer (x : Reg)
  | setSoundTimer (x : Reg)
  | addToIndex (x : Reg)
  | fontAddress (x : Reg)
  | storeBCD (x : Reg)
  | storeRegisters (x : Reg)
  | loadRegisters (x : Reg)
deriving DecidableEq, Repr

end Sys2Proof
end

