-- ==== Sys2Proof/WellFormed.lean ====
section
/-! DEFINITION. WellFormed.lean: which terms of Instr stand for a word. Every operand type is exactly its field's width
(R102), so the only check left is the decode priority of 30_encoding.md R106: 00E0 and 00EE are tried before 0NNN, so
no word decodes to ExecuteMachineCode with one of those two addresses. -/

namespace Sys2Proof

/-- 0NNN stands for every NNN except 0x0E0 and 0x0EE (R106, R107, R109). -/
def Instr.wf : Instr → Bool
  | .executeMachineCode nnn => nnn != 0x0E0#12 && nnn != 0x0EE#12
  | _ => true

end Sys2Proof
end

