-- ==== Sys2Proof/Decode.lean ====
section
/-! DEFINITION. Decode.lean: the decoder of 30_encoding.md (R100 to R109) and the encoder written from the same table
(R107). The four nibbles of a word are taken in source order (20_memory.md R67). -/

namespace Sys2Proof

/-- The four nibbles of an instruction word, `n0` the high nibble of the first byte (R7, R67). -/
structure Nibbles where
  n0 : Nibble
  n1 : Nibble
  n2 : Nibble
  n3 : Nibble
deriving DecidableEq, Repr

/-- Why a list of bytes is not an instruction. -/
inductive DecodeError where
  /-- the word matches no row of R107 (R108) -/
  | unknownInstruction
  /-- fewer than the two bytes of an instruction are there (R100) -/
  | truncated
deriving DecidableEq, Repr

def highNibble (b : Byte) : Nibble := b.extractLsb' 4 4
def lowNibble (b : Byte) : Nibble := b.extractLsb' 0 4

/-- The nibbles of the two bytes of an instruction, the byte at the lower address first (R67). -/
def nibblesOf (b0 b1 : Byte) : Nibbles :=
  { n0 := highNibble b0, n1 := lowNibble b0, n2 := highNibble b1, n3 := lowNibble b1 }

/-- The nibbles of a 16-bit word, `n0` its bits 15:12 (R7). -/
def nibblesOfWord (w : Word) : Nibbles :=
  { n0 := w.extractLsb' 12 4, n1 := w.extractLsb' 8 4, n2 := w.extractLsb' 4 4, n3 := w.extractLsb' 0 4 }

/-- A nibble as a register index, or as a row count (R102). -/
def nibbleIndex (n : Nibble) : Fin 16 := ⟨n.toNat, n.isLt⟩

/-- "the 8-bit immediate operands by concatenating 2 nibbles" (R103). -/
def assembleByte (n2 n3 : Nibble) : Byte := n2 ++ n3

/-- "the 16-bit/12-bit address operands are reconstructed by concatenating 3 nibbles" (R103). -/
def assembleAddr (n1 n2 n3 : Nibble) : Addr12 := n1 ++ n2 ++ n3

/-- The decode function of R106: the first row that matches, or unknown. -/
def decode (q : Nibbles) : Except DecodeError Instr :=
  match q.n0, q.n1, q.n2, q.n3 with
  | 0x0, 0x0, 0xE, 0x0 => .ok .clearScreen
  | 0x0, 0x0, 0xE, 0xE => .ok .ret
  | 0x0, a, b, c => .ok (.executeMachineCode (assembleAddr a b c))
  | 0x1, a, b, c => .ok (.jump (assembleAddr a b c))
  | 0x2, a, b, c => .ok (.call (assembleAddr a b c))
  | 0x3, x, a, b => .ok (.skipIfEqualValue (nibbleIndex x) (assembleByte a b))
  | 0x4, x, a, b => .ok (.skipIfNotEqualValue (nibbleIndex x) (assembleByte a b))
  | 0x5, x, y, 0x0 => .ok (.skipIfEqualRegister (nibbleIndex x) (nibbleIndex y))
  | 0x6, x, a, b => .ok (.storeValue (nibbleIndex x) (assembleByte a b))
  | 0x7, x, a, b => .ok (.addValue (nibbleIndex x) (assembleByte a b))
  | 0x8, x, y, 0x0 => .ok (.storeRegister (nibbleIndex x) (nibbleIndex y))
  | 0x8, x, y, 0x1 => .ok (.orRegister (nibbleIndex x) (nibbleIndex y))
  | 0x8, x, y, 0x2 => .ok (.andRegister (nibbleIndex x) (nibbleIndex y))
  | 0x8, x, y, 0x3 => .ok (.xorRegister (nibbleIndex x) (nibbleIndex y))
  | 0x8, x, y, 0x4 => .ok (.addRegister (nibbleIndex x) (nibbleIndex y))
  | 0x8, x, y, 0x5 => .ok (.subRegister (nibbleIndex x) (nibbleIndex y))
  | 0x8, x, y, 0x6 => .ok (.shiftRight (nibbleIndex x) (nibbleIndex y))
  | 0x8, x, y, 0x7 => .ok (.subRegisterReversed (nibbleIndex x) (nibbleIndex y))
  | 0x8, x, y, 0xE => .ok (.shiftLeft (nibbleIndex x) (nibbleIndex y))
  | 0x9, x, y, 0x0 => .ok (.skipIfNotEqualRegister (nibbleIndex x) (nibbleIndex y))
  | 0xA, a, b, c => .ok (.storeIndex (assembleAddr a b c))
  | 0xB, a, b, c => .ok (.jumpWithOffset (assembleAddr a b c))
  | 0xC, x, a, b => .ok (.random (nibbleIndex x) (assembleByte a b))
  | 0xD, x, y, n => .ok (.drawSprite (nibbleIndex x) (nibbleIndex y) (nibbleIndex n))
  | 0xE, x, 0x9, 0xE => .ok (.skipIfKeyPressed (nibbleIndex x))
  | 0xE, x, 0xA, 0x1 => .ok (.skipIfKeyNotPressed (nibbleIndex x))
  | 0xF, x, 0x0, 0x7 => .ok (.loadDelayTimer (nibbleIndex x))
  | 0xF, x, 0x0, 0xA => .ok (.waitForKey (nibbleIndex x))
  | 0xF, x, 0x1, 0x5 => .ok (.setDelayTimer (nibbleIndex x))
  | 0xF, x, 0x1, 0x8 => .ok (.setSoundTimer (nibbleIndex x))
  | 0xF, x, 0x1, 0xE => .ok (.addToIndex (nibbleIndex x))
  | 0xF, x, 0x2, 0x9 => .ok (.fontAddress (nibbleIndex x))
  | 0xF, x, 0x3, 0x3 => .ok (.storeBCD (nibbleIndex x))
  | 0xF, x, 0x5, 0x5 => .ok (.storeRegisters (nibbleIndex x))
  | 0xF, x, 0x6, 0x5 => .ok (.loadRegisters (nibbleIndex x))
  | _, _, _, _ => .error .unknownInstruction

/-- The decoder on a 16-bit word. -/
def decodeWord (w : Word) : Except DecodeError Instr := decode (nibblesOfWord w)

/-- The decoder on bytes, total: the instruction of the first two bytes, and the bytes after it (R100). -/
def decodeBytes : List Byte → Except DecodeError (Instr × List Byte)
  | b0 :: b1 :: rest =>
    match decode (nibblesOf b0 b1) with
    | .ok i => .ok (i, rest)
    | .error e => .error e
  | _ => .error .truncated

/-! ### The encoder -/

/-- A register index, or a row count, as a nibble (R102). -/
def indexNibble (r : Fin 16) : Nibble := BitVec.ofNat 4 r.val

/-- Format NNN of R101. -/
def formatNNN (op : Nibble) (nnn : Addr12) : Nibbles :=
  { n0 := op, n1 := nnn.extractLsb' 8 4, n2 := nnn.extractLsb' 4 4, n3 := nnn.extractLsb' 0 4 }

/-- Format XNN of R101. -/
def formatXNN (op : Nibble) (x : Reg) (nn : Byte) : Nibbles :=
  { n0 := op, n1 := indexNibble x, n2 := highNibble nn, n3 := lowNibble nn }

/-- Format XY of R101, and XYN with the last nibble a count. -/
def formatXY (op : Nibble) (x y : Reg) (last : Nibble) : Nibbles :=
  { n0 := op, n1 := indexNibble x, n2 := indexNibble y, n3 := last }

/-- Format X of R101. -/
def formatX (op : Nibble) (x : Reg) (n2 n3 : Nibble) : Nibbles :=
  { n0 := op, n1 := indexNibble x, n2 := n2, n3 := n3 }

/-- The nibbles of an instruction, from the patterns of R107. -/
def encodeNibbles : Instr → Nibbles
  | .clearScreen => ⟨0x0, 0x0, 0xE, 0x0⟩
  | .ret => ⟨0x0, 0x0, 0xE, 0xE⟩
  | .executeMachineCode nnn => formatNNN 0x0 nnn
  | .jump nnn => formatNNN 0x1 nnn
  | .call nnn => formatNNN 0x2 nnn
  | .skipIfEqualValue x nn => formatXNN 0x3 x nn
  | .skipIfNotEqualValue x nn => formatXNN 0x4 x nn
  | .skipIfEqualRegister x y => formatXY 0x5 x y 0x0
  | .storeValue x nn => formatXNN 0x6 x nn
  | .addValue x nn => formatXNN 0x7 x nn
  | .storeRegister x y => formatXY 0x8 x y 0x0
  | .orRegister x y => formatXY 0x8 x y 0x1
  | .andRegister x y => formatXY 0x8 x y 0x2
  | .xorRegister x y => formatXY 0x8 x y 0x3
  | .addRegister x y => formatXY 0x8 x y 0x4
  | .subRegister x y => formatXY 0x8 x y 0x5
  | .shiftRight x y => formatXY 0x8 x y 0x6
  | .subRegisterReversed x y => formatXY 0x8 x y 0x7
  | .shiftLeft x y => formatXY 0x8 x y 0xE
  | .skipIfNotEqualRegister x y => formatXY 0x9 x y 0x0
  | .storeIndex nnn => formatNNN 0xA nnn
  | .jumpWithOffset nnn => formatNNN 0xB nnn
  | .random x nn => formatXNN 0xC x nn
  | .drawSprite x y n => formatXY 0xD x y (indexNibble n)
  | .skipIfKeyPressed x => formatX 0xE x 0x9 0xE
  | .skipIfKeyNotPressed x => formatX 0xE x 0xA 0x1
  | .loadDelayTimer x => formatX 0xF x 0x0 0x7
  | .waitForKey x => formatX 0xF x 0x0 0xA
  | .setDelayTimer x => formatX 0xF x 0x1 0x5
  | .setSoundTimer x => formatX 0xF x 0x1 0x8
  | .addToIndex x => formatX 0xF x 0x1 0xE
  | .fontAddress x => formatX 0xF x 0x2 0x9
  | .storeBCD x => formatX 0xF x 0x3 0x3
  | .storeRegisters x => formatX 0xF x 0x5 0x5
  | .loadRegisters x => formatX 0xF x 0x6 0x5

/-- The word of an instruction: `n0` is its bits 15:12 (R7). -/
def encodeWord (i : Instr) : Word :=
  let q := encodeNibbles i
  q.n0 ++ q.n1 ++ q.n2 ++ q.n3

/-- The bytes of an instruction as memory holds them, the high byte at the lower address (R67, R100). -/
def encode (i : Instr) : List Byte :=
  let q := encodeNibbles i
  [q.n0 ++ q.n1, q.n2 ++ q.n3]

/-! ### The host's view of a word -/

/-- The first word of an instruction whose bits are `w`, of which only `nbits` are given. -/
def tableWord (nbits w : Nat) : Word := BitVec.ofNat 16 (w % 2 ^ nbits)

/-- A word as memory stores it: big-endian (R67). -/
def wordBytes (w : Word) : List Byte := [w.extractLsb' 8 8, w.extractLsb' 0 8]

/-- What the decoder reads from an instruction whose bits are `w`, numbered as spec/opcode_table.json numbers them. -/
def decodeTableWord (nbits w : Nat) : Option Instr :=
  match decodeBytes (wordBytes (tableWord nbits w)) with
  | .ok (i, _) => some i
  | .error _ => none

end Sys2Proof
end

