-- ==== Sys2Proof/Config.lean ====
section
/-! DEFINITION. Config.lean: the implementation parameters of spec 00_scope.md R5 and of the decisions of
92_eei_decisions.md, each at the value the spec decides, and the open values, which have no body. -/

namespace Sys2Proof.Config

/-- `MEM_SIZE` (R5, R60): addresses 0 to 4095 exist. -/
def memSize : Nat := 4096

/-- `PROGRAM_BASE` (R5, R61). -/
def programBase : Nat := 0x200

/-- `PROGRAM_MAX` (R5): the bytes of the program region. -/
def programMax : Nat := 3584

/-- `ENTRY_PC` (R5, R321; decision D3, log 1). -/
def entryPc : Word := 0x0200#16

/-- `STACK_CAPACITY` (R5, R31; conflict C1, decision D1, log 20). -/
def stackCapacity : Nat := 12

/-- `STACK_ENTRY_WIDTH` (R5, R31; decision D28, log 20): as wide as pc, so that an address is stored unmasked. -/
abbrev stackEntryWidth : Nat := 16

/-- An entry of the call stack: a return address (R31). -/
abbrev StackEntry := BitVec stackEntryWidth

/-- `GLYPH_BYTES` (R5): the bytes of one glyph. -/
def glyphBytes : Nat := 5

/-- `FONT_BASE` (R5, R64; decision D4, log 2). -/
def fontBase : Nat := 0x000

/-- `FONT_DATA` (R64; decision D5, log 2): sixteen glyphs of five bytes, glyph 0 first, top row first. -/
def fontData : List Byte :=
  [0xF0#8, 0x90#8, 0x90#8, 0x90#8, 0xF0#8] ++ [0x20#8, 0x60#8, 0x20#8, 0x20#8, 0x70#8] ++
  [0xF0#8, 0x10#8, 0xF0#8, 0x80#8, 0xF0#8] ++ [0xF0#8, 0x10#8, 0xF0#8, 0x10#8, 0xF0#8] ++
  [0x90#8, 0x90#8, 0xF0#8, 0x10#8, 0x10#8] ++ [0xF0#8, 0x80#8, 0xF0#8, 0x10#8, 0xF0#8] ++
  [0xF0#8, 0x80#8, 0xF0#8, 0x90#8, 0xF0#8] ++ [0xF0#8, 0x10#8, 0x20#8, 0x40#8, 0x40#8] ++
  [0xF0#8, 0x90#8, 0xF0#8, 0x90#8, 0xF0#8] ++ [0xF0#8, 0x90#8, 0xF0#8, 0x10#8, 0xF0#8] ++
  [0xF0#8, 0x90#8, 0xF0#8, 0x90#8, 0x90#8] ++ [0xE0#8, 0x90#8, 0xE0#8, 0x90#8, 0xE0#8] ++
  [0xF0#8, 0x80#8, 0x80#8, 0x80#8, 0xF0#8] ++ [0xE0#8, 0x90#8, 0x90#8, 0x90#8, 0xE0#8] ++
  [0xF0#8, 0x80#8, 0xF0#8, 0x80#8, 0xF0#8] ++ [0xF0#8, 0x80#8, 0xF0#8, 0x80#8, 0x80#8]

/-- How EX9E and EXA1 read the key number V[X] (`KEY_INDEX_MODE`, D13, U6). -/
inductive KeyIndexMode where
  /-- the key is V[X] & 0x0F -/
  | lowNibble
  /-- a value above 0x0F names a key that is never pressed -/
  | neverPressed
deriving DecidableEq, Repr

/-- How FX29 reads the glyph number V[X] (`FONT_INDEX_MODE`, D12, U5). -/
inductive FontIndexMode where
  /-- the glyph is V[X] & 0x0F -/
  | lowNibble
  /-- the address is FONT_BASE + 5 * V[X] -/
  | unmasked
deriving DecidableEq, Repr

/-- Whether DXYN reduces its start position modulo the screen (`SPRITE_START_WRAP`, D14, U7). -/
inductive SpriteStartWrap where
  /-- the start is V[X], V[Y] as they are -/
  | noWrap
  /-- the start is V[X] mod 64, V[Y] mod 32 -/
  | moduloScreen
deriving DecidableEq, Repr

/-- `KEY_INDEX_MODE` as R5 and R228 decide it (D13, log 9). -/
def keyIndexMode : KeyIndexMode := .lowNibble

/-- `FONT_INDEX_MODE` as R5 and R203 decide it (D12, log 8). -/
def fontIndexMode : FontIndexMode := .lowNibble

/-- `SPRITE_START_WRAP` as R242 (c) decides it (D14, log 10). -/
def spriteStartWrap : SpriteStartWrap := .noWrap

/-- `RELEASE_CLEARS_EDGE` as R274 decides it (D19, U13, log 22). -/
def releaseClearsEdge : Bool := false

/-- `RNG` (R5, R221; D23, U8, log 3): the k-th random byte. A free value: nothing can be proved of it. -/
opaque drawByte : Nat → Byte

/-- `TICKS_PER_FRAME` (R5, R327; D22, log 26): the driver's tick budget, open. -/
opaque ticksPerFrame : Nat

/-- `FRAME_RATE` (R5, R327; D22, log 26): frames per second of the driver, open; no rule depends on it. -/
opaque frameRate : Nat

end Sys2Proof.Config
end

