-- ==== Sys2Proof/Machine/State.lean ====
section
/-! DEFINITION. Machine/State.lean: the whole state of the machine (10_state.md, the closed list of R42), its faults
(60_exceptions.md R260), the flow directives (R26), and the state after construction (R41). Plain data. -/

namespace Sys2Proof.Machine

/-- The error kinds of R260, a closed list without payload (R261). Each stops the step, leaving the state as it was
before (R10, R263, R264): what the spec says, so neither direction is unsafe by itself (log 16). -/
inductive Fault where
  /-- raised by Call with 12 entries on the stack (R144); safe -/
  | stackOverflow
  /-- raised by Return with an empty stack (R142); safe -/
  | stackUnderflow
  /-- raised by the fetch at pc 4095 or above (R67), and by FX33, FX55, FX65 past address 4095 (R204 to R206); the
  kind is decision D16 (log 12): safe but for a claim about the kind itself -/
  | outOfBoundAddress
  /-- raised by DXYN when I + N exceeds 4096 (R242, R76); kind and bound are decisions D15, D16 (logs 11, 12); safe -/
  | outOfBoundRange
  /-- raised by every 0NNN but 00E0 and 00EE (R141; decision D7, log 4); safe for 0NNN -/
  | unimplementedInstruction
  /-- raised by the decoder on a word of R108; safe -/
  | unknownInstruction
  /-- raised by the host operation load_program on more than 3584 bytes (R272), never by a step; safe -/
  | programTooLarge
deriving DecidableEq, Repr

/-- Refusals: none of the 35 instructions is refused. -/
inductive Refusal where
  /-- raised by an arm of exec whose instruction has no meaning yet; safe; no arm raises it -/
  | notModelled (mnemonic : String)
deriving DecidableEq, Repr

/-- The flow directive an instruction ends with (R26). -/
inductive Flow where
  | advance
  | skip
  | goTo (a : Word)
  | wait
deriving DecidableEq, Repr

/-- Memory: the bytes that differ from the contents after construction, addresses rising (log 21). -/
abbrev Memory := List Host.Cell

/-- The pixels, row by row: `fb[y][x]` is the spec's FB[y][x], true when set (R37). -/
abbrev Screen := Vector (Vector Bool 64) 32

/-- The state of the machine. Every field but `draws` is the spec's (10_state.md R20 to R37, R42). -/
structure State where
  /-- V0 to VF (R20); VF is `v[15]` (R21) -/
  v : Vector Byte 16
  /-- I (R23) -/
  index : Word
  /-- pc (R25) -/
  pc : Word
  /-- DT (R29) -/
  dt : Byte
  /-- ST (R29) -/
  st : Byte
  /-- the call stack (R31), the newest entry first; `depth` is its length -/
  stack : List Config.StackEntry
  /-- the 4096 bytes (R60), as the list of those that differ from the contents after construction -/
  mem : Memory
  /-- KEY (R34) -/
  key : Vector Bool 16
  /-- JP, the edge set (R35) -/
  jp : Vector Bool 16
  /-- FB (R37) -/
  fb : Screen
  /-- the model's own field, not the spec's: how many random bytes have been drawn (R221; DESIGN CHOICE, log 3) -/
  draws : Nat
deriving DecidableEq, Repr

/-- The machine after construction (R41, R271, R320; decision D3, log 1). -/
def State.reset : State where
  v := Vector.replicate 16 0x00#8
  index := 0x0000#16
  pc := Config.entryPc
  dt := 0x00#8
  st := 0x00#8
  stack := []
  mem := []
  key := Vector.replicate 16 false
  jp := Vector.replicate 16 false
  fb := Vector.replicate 32 (Vector.replicate 64 false)
  draws := 0

/-- What executing an instruction gives before the tick moves pc: the state it leaves with pc still its own address,
and its flow directive (R9, R25); or the error kind it raises. -/
abbrev Effect := Except Fault (State × Flow)

end Sys2Proof.Machine
end

