-- ==== Sys2Proof/Machine/Ops.lean ====
section
/-! DEFINITION. Machine/Ops.lean: the shared operations over memory, the call stack and pc: bounds-checked reads and
writes (20_memory.md R62 to R67), push and pop (10_state.md R32, R33), the flow directives (R26), and raising an error,
which is all that an exception is on this machine (60_exceptions.md R263, R264). -/

namespace Sys2Proof.Machine

/-! ### Memory -/

/-- What the byte at `a` holds after construction, which is what an address not listed in memory reads as: the font,
and 0x00 everywhere else (R41, R64; decisions D4, D5, log 2). -/
def initialByte (a : Nat) : Byte :=
  if Config.fontBase ≤ a then (Config.fontData[a - Config.fontBase]?).getD 0x00#8 else 0x00#8

/-- The byte at `a`; used for `a` below 4096 only. -/
def Memory.read : Memory → Nat → Byte
  | [], a => initialByte a
  | c :: cs, a => if c.1 = a then c.2 else Memory.read cs a

/-- List `b` at `a`, addresses kept rising. -/
def Memory.insertCell (a : Nat) (b : Byte) : Memory → Memory
  | [] => [(a, b)]
  | c :: cs =>
    if a < c.1 then (a, b) :: c :: cs
    else if a = c.1 then (a, b) :: cs
    else c :: Memory.insertCell a b cs

/-- List nothing at `a`. -/
def Memory.eraseCell (a : Nat) : Memory → Memory
  | [] => []
  | c :: cs => if c.1 = a then Memory.eraseCell a cs else c :: Memory.eraseCell a cs

/-- Store `b` at `a`, in canonical form: a byte equal to the contents after construction is not listed. -/
def Memory.write (m : Memory) (a : Nat) (b : Byte) : Memory :=
  if b = initialByte a then m.eraseCell a else m.insertCell a b

/-- The canonical form: addresses strictly rising, all below 4096, no byte listed that equals what the address reads
as unlisted. -/
abbrev Memory.wf (m : Memory) : Prop :=
  m.Pairwise (fun p q => p.1 < q.1) ∧ ∀ c ∈ m, c.1 < Config.memSize ∧ c.2 ≠ initialByte c.1

/-- The bytes at `a`, `a + 1`, ..., lowest address first. -/
def Memory.readBytes (m : Memory) (a n : Nat) : List Byte :=
  (List.range n).map (fun i => m.read (a + i))

/-- Store the bytes at `a`, `a + 1`, .... -/
def Memory.writeBytes (m : Memory) (a : Nat) : List Byte → Memory
  | [] => m
  | b :: bs => Memory.writeBytes (m.write a b) (a + 1) bs

/-- Do the `n` bytes at `a` exist? On natural numbers: nothing wraps (R62). -/
def inBounds (a n : Nat) : Bool := decide (a + n ≤ Config.memSize)

/-- MemRead of R65; the error kind is the using rule's. -/
def memRead (kind : Fault) (m : Memory) (a n : Nat) : Except Fault (List Byte) :=
  if inBounds a n then .ok (m.readBytes a n) else .error kind

/-- MemWrite of R66: the whole extent is checked before the first byte is written. -/
def memWrite (m : Memory) (a : Nat) (bs : List Byte) : Except Fault Memory :=
  if inBounds a bs.length then .ok (m.writeBytes a bs) else .error .outOfBoundAddress

/-! ### Fetch -/

/-- Fetch of R67: `nibbles_at(pc)`. -/
def fetch (s : State) : Except Fault Nibbles :=
  if inBounds s.pc.toNat 2 then
    .ok (nibblesOf (s.mem.read s.pc.toNat) (s.mem.read (s.pc.toNat + 1)))
  else .error .outOfBoundAddress

/-- Fetch, then decode: the first two checks of a tick, in the order of R265. -/
def fetchInstr (s : State) : Except Fault Instr :=
  match fetch s with
  | .error f => .error f
  | .ok q =>
    match decode q with
    | .ok i => .ok i
    | .error _ => .error .unknownInstruction

/-! ### The call stack -/

/-- Push of R32. -/
def push (a : Config.StackEntry) (s : State) : Except Fault State :=
  if s.stack.length < Config.stackCapacity then .ok { s with stack := a :: s.stack }
  else .error .stackOverflow

/-- Pop of R33: the newest entry, and the state without it. -/
def pop (s : State) : Except Fault (Config.StackEntry × State) :=
  match s.stack with
  | [] => .error .stackUnderflow
  | a :: rest => .ok (a, { s with stack := rest })

/-- `depth` of R31. -/
def State.depth (s : State) : Nat := s.stack.length

/-- `stack[k]` of R31, entry 0 the oldest. -/
def State.stackEntry (s : State) (k : Nat) : Option Config.StackEntry := s.stack.reverse[k]?

/-! ### Ending an instruction -/

/-- The size of an instruction in bytes (R100), as pc counts it. -/
def instrSize : Word := 2#16

/-- The tick applies the flow directive to pc (R26, R27). -/
def State.follow (s : State) : Flow → State
  | .advance => { s with pc := s.pc + instrSize }
  | .skip => { s with pc := s.pc + instrSize + instrSize }
  | .goTo a => { s with pc := a }
  | .wait => s

/-- An instruction's end without error: its state and its flow directive (R9). -/
def done (s : State) (f : Flow) : Effect := .ok (s, f)

/-- `raise`: the only exception this machine has. The tick ends with the error kind; no state is saved, changed or
entered (R263, R264). -/
def raise (f : Fault) : Effect := .error f

/-- The end of a tick: an error stops it, anything else lets the directive move pc (R27). -/
def finish : Effect → Host.Outcome State Fault Refusal
  | .ok (s, f) => .next (s.follow f)
  | .error f => .fault f

/-- Skip when the condition holds, Advance otherwise (R160). -/
def skipIf (c : Bool) : Flow := if c then .skip else .advance

/-! ### Placing a word for the host -/

/-- Where the next instruction is fetched from, moved to the entry address when no instruction fits at pc (log 19). -/
def fetchablePc (s : State) : Word := if inBounds s.pc.toNat 2 then s.pc else Config.entryPc

/-- The word stored where the next step fetches (R67). -/
def placeWord (s : State) (w : Word) : State :=
  { s with pc := fetchablePc s, mem := s.mem.writeBytes (fetchablePc s).toNat (wordBytes w) }

end Sys2Proof.Machine
end

