-- ==== Sys2Proof/Machine/Operands.lean ====
section
/-! DEFINITION. Machine/Operands.lean: every operand form. V registers (10_state.md R20, R21), NNN carried in 16 bits
(30_encoding.md R103), the glyph named by V[X] (43_index_memory.md R203), the key named by V[X]
(44_random_timer_keypad.md R228), the edge set (10_state.md R36), and the block of bytes at I (43 R207). -/

namespace Sys2Proof.Machine

/-- The index of VF (R21). -/
def vf : Reg := 15

/-- `V[r]` (R8, R20). -/
def State.readReg (s : State) (r : Reg) : Byte := s.v[r]

/-- `V[r] <- b` (R8, R20): no register is hardwired. -/
def State.writeReg (s : State) (r : Reg) (b : Byte) : State := { s with v := s.v.set r b }

/-- The result to V[X] first, the flag to VF after it (R21 (b)). -/
def State.writeResultFlag (s : State) (x : Reg) (result flag : Byte) : State :=
  (s.writeReg x result).writeReg vf flag

/-- NNN "zero-extended to the 16-bit width of pc and I" (R103). -/
def addressOf (nnn : Addr12) : Word := nnn.setWidth 16

/-- A V register's byte promoted to address width (R145, R202). -/
def promote (b : Byte) : Word := b.setWidth 16

/-- The glyph number FX29 reads from V[X] (R203). -/
def glyphNumber : Config.FontIndexMode → Byte → Nat
  | .lowNibble, b => (b &&& 0x0F#8).toNat
  | .unmasked, b => b.toNat

/-- The address of a glyph (R64, R203). -/
def glyphAddress (d : Nat) : Word := BitVec.ofNat 16 (Config.fontBase + Config.glyphBytes * d)

/-- The key named by V[X] (R228), none where the mode says a value above 0x0F names no key. -/
def keyNamed : Config.KeyIndexMode → Byte → Option Key
  | .lowNibble, b => some (nibbleIndex (lowNibble b))
  | .neverPressed, b => if b.toNat < 16 then some (nibbleIndex (lowNibble b)) else none

/-- The steady state of the key named by V[X] (R34, R225). -/
def keyHeld (mode : Config.KeyIndexMode) (s : State) (b : Byte) : Bool :=
  match keyNamed mode b with
  | some k => s.key[k]
  | none => false

/-- JustPressed of R36: the least key in the edge set, or none. -/
def justPressed (s : State) : Option Key := (List.finRange 16).find? (fun k => s.jp[k])

/-- A key number as a register's value (R227). -/
def keyByte (k : Key) : Byte := BitVec.ofNat 8 k.val

/-- V[0], ..., V[x]: what FX55 stores (R205). -/
def regsUpTo (s : State) (x : Reg) : List Byte := s.v.toList.take (x.val + 1)

/-- V[i], V[i+1], ... take the bytes of a list in order (R206). -/
def loadRegsFrom (v : Vector Byte 16) (i : Nat) : List Byte → Vector Byte 16
  | [] => v
  | b :: bs => loadRegsFrom (v.setIfInBounds i b) (i + 1) bs

/-- "one past the last address touched (`index += x + 1`)" (R205, R206). -/
def indexPast (s : State) (x : Reg) : Word := s.index + BitVec.ofNat 16 (x.val + 1)

/-- The three decimal digits of a byte: hundreds, tens, ones (R204). -/
def bcdDigits (b : Byte) : List Byte := [b / 100#8, b / 10#8 % 10#8, b % 10#8]

/-- The start coordinate of a sprite along an axis of `size` pixels (R242 (c), (d)). -/
def spriteStart : Config.SpriteStartWrap → Nat → Byte → Nat
  | .noWrap, _, b => b.toNat
  | .moduloScreen, size, b => b.toNat % size

end Sys2Proof.Machine
end

