-- ==== Sys2Proof/Machine/Flags.lean ====
section
/-! DEFINITION. Machine/Flags.lean: every value VF takes as a flag (10_state.md R22), each computed from the operands
as read before any write (R21 (a)). -/

namespace Sys2Proof.Machine

/-- The flag as a byte: 0x01 or 0x00. -/
def flagByte (c : Bool) : Byte := if c then 0x01#8 else 0x00#8

/-- "VF=1 iff the unsigned 8-bit sum of the two operands exceeds 255" (R177). -/
def carryFlag (a b : Byte) : Byte := flagByte (decide (255 < a.toNat + b.toNat))

/-- "VF=0 iff a borrow occurred", 1 otherwise, for `a - b` (R178, R180). -/
def noBorrowFlag (a b : Byte) : Byte := if a.toNat < b.toNat then 0x00#8 else 0x01#8

/-- The bit shifted out to the right: `b & 0x01` (R179). -/
def lowBitFlag (b : Byte) : Byte := b &&& 0x01#8

/-- The bit shifted out to the left, not normalised: `b & 0x80` (R181; conflict C6). -/
def highBitFlag (b : Byte) : Byte := b &&& 0x80#8

/-- VF after a draw: 1 iff some pixel went from set to unset (R242). -/
def collisionFlag (hit : Bool) : Byte := flagByte hit

end Sys2Proof.Machine
end

