-- ==== Sys2Proof/Machine/Alu.lean ====
section
/-! DEFINITION. Machine/Alu.lean: 6XNN, 7XNN, 8XY0 to 8XY7, 8XYE (42_alu.md). Every operand is read from the state
before the first write; the five with a flag write it after the result (R170, R183); every one ends with Advance. -/

namespace Sys2Proof.Machine

/-- R171. -/
def effectStoreValue (x : Reg) (nn : Byte) (s : State) : Effect := done (s.writeReg x nn) .advance

def execStoreValue (x : Reg) (nn : Byte) (s : State) : Host.Outcome State Fault Refusal :=
  finish (effectStoreValue x nn s)

/-- R172: no carry is recorded (decision D8, log 6). -/
def effectAddValue (x : Reg) (nn : Byte) (s : State) : Effect :=
  done (s.writeReg x (s.readReg x + nn)) .advance

def execAddValue (x : Reg) (nn : Byte) (s : State) : Host.Outcome State Fault Refusal :=
  finish (effectAddValue x nn s)

/-- R173. -/
def effectStoreRegister (x y : Reg) (s : State) : Effect := done (s.writeReg x (s.readReg y)) .advance

def execStoreRegister (x y : Reg) (s : State) : Host.Outcome State Fault Refusal :=
  finish (effectStoreRegister x y s)

/-- R174: VF is not written (decision D9, log 6). -/
def effectOrRegister (x y : Reg) (s : State) : Effect :=
  done (s.writeReg x (s.readReg x ||| s.readReg y)) .advance

def execOrRegister (x y : Reg) (s : State) : Host.Outcome State Fault Refusal := finish (effectOrRegister x y s)

/-- R175: VF is not written (decision D9, log 6). -/
def effectAndRegister (x y : Reg) (s : State) : Effect :=
  done (s.writeReg x (s.readReg x &&& s.readReg y)) .advance

def execAndRegister (x y : Reg) (s : State) : Host.Outcome State Fault Refusal := finish (effectAndRegister x y s)

/-- R176: VF is not written (decision D9, log 6). -/
def effectXorRegister (x y : Reg) (s : State) : Effect :=
  done (s.writeReg x (s.readReg x ^^^ s.readReg y)) .advance

def execXorRegister (x y : Reg) (s : State) : Host.Outcome State Fault Refusal := finish (effectXorRegister x y s)

/-- R177. -/
def effectAddRegister (x y : Reg) (s : State) : Effect :=
  let a := s.readReg x
  let b := s.readReg y
  done (s.writeResultFlag x (a + b) (carryFlag a b)) .advance

def execAddRegister (x y : Reg) (s : State) : Host.Outcome State Fault Refusal := finish (effectAddRegister x y s)

/-- R178. -/
def effectSubRegister (x y : Reg) (s : State) : Effect :=
  let a := s.readReg x
  let b := s.readReg y
  done (s.writeResultFlag x (a - b) (noBorrowFlag a b)) .advance

def execSubRegister (x y : Reg) (s : State) : Host.Outcome State Fault Refusal := finish (effectSubRegister x y s)

/-- R179: the source is V[Y]; the shift is by one. -/
def effectShiftRight (x y : Reg) (s : State) : Effect :=
  let b := s.readReg y
  done (s.writeResultFlag x (b >>> 1) (lowBitFlag b)) .advance

def execShiftRight (x y : Reg) (s : State) : Host.Outcome State Fault Refusal := finish (effectShiftRight x y s)

/-- R180: V[Y] - V[X] (decision D10, log 24). -/
def effectSubRegisterReversed (x y : Reg) (s : State) : Effect :=
  let a := s.readReg x
  let b := s.readReg y
  done (s.writeResultFlag x (b - a) (noBorrowFlag b a)) .advance

def execSubRegisterReversed (x y : Reg) (s : State) : Host.Outcome State Fault Refusal :=
  finish (effectSubRegisterReversed x y s)

/-- R181: the source is V[Y]; the flag is 0x80 or 0x00. -/
def effectShiftLeft (x y : Reg) (s : State) : Effect :=
  let b := s.readReg y
  done (s.writeResultFlag x (b <<< 1) (highBitFlag b)) .advance

def execShiftLeft (x y : Reg) (s : State) : Host.Outcome State Fault Refusal := finish (effectShiftLeft x y s)

end Sys2Proof.Machine
end

