-- ==== Sys2Proof/Machine/ControlFlow.lean ====
section
/-! DEFINITION. Machine/ControlFlow.lean: 0NNN, 00EE, 1NNN, 2NNN, BNNN (40_flow.md). `effect...` is the rule's
pseudocode, `exec...` the whole instruction with its pc update. -/

namespace Sys2Proof.Machine

/-- R141: always UnimplementedInstruction (decision D7, log 4). -/
def effectExecuteMachineCode (_nnn : Addr12) (_s : State) : Effect := raise .unimplementedInstruction

def execExecuteMachineCode (nnn : Addr12) (s : State) : Host.Outcome State Fault Refusal :=
  finish (effectExecuteMachineCode nnn s)

/-- R142: pop, and go to the popped address as it is. -/
def effectReturn (s : State) : Effect :=
  match pop s with
  | .ok (a, t) => done t (.goTo a)
  | .error f => raise f

def execReturn (s : State) : Host.Outcome State Fault Refusal := finish (effectReturn s)

/-- R143. -/
def effectJump (nnn : Addr12) (s : State) : Effect := done s (.goTo (addressOf nnn))

def execJump (nnn : Addr12) (s : State) : Host.Outcome State Fault Refusal := finish (effectJump nnn s)

/-- R144: push the address after this instruction, and go to NNN. -/
def effectCall (nnn : Addr12) (s : State) : Effect :=
  match push (s.pc + instrSize) s with
  | .ok t => done t (.goTo (addressOf nnn))
  | .error f => raise f

def execCall (nnn : Addr12) (s : State) : Host.Outcome State Fault Refusal := finish (effectCall nnn s)

/-- R145: NNN + V[0], not reduced to 12 bits (decision D24, log 13). -/
def effectJumpWithOffset (nnn : Addr12) (s : State) : Effect :=
  done s (.goTo (addressOf nnn + promote (s.readReg 0)))

def execJumpWithOffset (nnn : Addr12) (s : State) : Host.Outcome State Fault Refusal :=
  finish (effectJumpWithOffset nnn s)

end Sys2Proof.Machine
end

