-- ==== Sys2Proof/Machine/Screen.lean ====
section
/-! DEFINITION. Machine/Screen.lean: the pixel grid, its clearing, and the sprite compositor and collision detector, as
the loops of 45_display.md R242. -/

namespace Sys2Proof.Machine

/-- The clear screen: every pixel unset (R241). -/
def Screen.blank : Screen := Vector.replicate 32 (Vector.replicate 64 false)

/-- FB[y][x] (R37). -/
def Screen.pixel (fb : Screen) (y : Fin 32) (x : Fin 64) : Bool := fb[y][x]

/-- Bit `c` of a sprite row counted from the left: "most-significant bit = leftmost pixel" (R242, R243). -/
def spriteBit (row : Byte) (c : Nat) : Bool := row.getLsbD (7 - c)

/-- One set sprite bit at column `px`, row `py`: toggle the pixel and report whether it was set; off the screen nothing
happens and nothing is reported (R242 (b)). -/
def Screen.toggle (fb : Screen) (px py : Nat) : Screen × Bool :=
  if h : px < 64 ∧ py < 32 then
    let row := fb[py]'h.2
    let old := row[px]'h.1
    (fb.set py (row.set px (!old) h.1) h.2, old)
  else (fb, false)

/-- The bit of column `c` of one row, drawn at `(x0 + c, py)`; the Bool gathers the collisions so far. -/
def drawBit (row : Byte) (x0 py : Nat) (acc : Screen × Bool) (c : Nat) : Screen × Bool :=
  if spriteBit row c then
    let t := acc.1.toggle (x0 + c) py
    (t.1, acc.2 || t.2)
  else acc

/-- One row of a sprite: eight bits, left to right. -/
def drawRow (row : Byte) (x0 py : Nat) (acc : Screen × Bool) : Screen × Bool :=
  (List.range 8).foldl (drawBit row x0 py) acc

/-- The rows of a sprite, the first at row `py`, each next one row lower (R243). -/
def drawRows (x0 : Nat) : Nat → List Byte → Screen × Bool → Screen × Bool
  | _, [], acc => acc
  | py, row :: rows, acc => drawRows x0 (py + 1) rows (drawRow row x0 py acc)

/-- `draw_sprite` (R240, R242): the screen after, and whether any pixel went from set to unset. -/
def Screen.draw (fb : Screen) (x0 y0 : Nat) (rows : List Byte) : Screen × Bool :=
  drawRows x0 y0 rows (fb, false)

end Sys2Proof.Machine
end

