-- ==== Sys2Proof/Machine/Display.lean ====
section
/-! DEFINITION. Machine/Display.lean: 00E0 and DXYN (45_display.md). -/

namespace Sys2Proof.Machine

/-- R241: VF is not written. -/
def effectClearScreen (s : State) : Effect := done { s with fb := Screen.blank } .advance

def execClearScreen (s : State) : Host.Outcome State Fault Refusal := finish (effectClearScreen s)

/-- R242: the N bytes at I are read first, then drawn at (V[X], V[Y]), then VF takes the collision (range check:
decisions D15, D16; start position: decision D14; logs 10 to 12). -/
def effectDrawSprite (x y : Reg) (n : Fin 16) (s : State) : Effect :=
  let x0 := spriteStart Config.spriteStartWrap 64 (s.readReg x)
  let y0 := spriteStart Config.spriteStartWrap 32 (s.readReg y)
  match memRead .outOfBoundRange s.mem s.index.toNat n.val with
  | .ok rows =>
    let d := s.fb.draw x0 y0 rows
    done ({ s with fb := d.1 }.writeReg vf (collisionFlag d.2)) .advance
  | .error f => raise f

def execDrawSprite (x y : Reg) (n : Fin 16) (s : State) : Host.Outcome State Fault Refusal :=
  finish (effectDrawSprite x y n s)

end Sys2Proof.Machine
end

