-- ==== Sys2Proof/Machine/IndexMemory.lean ====
section
/-! DEFINITION. Machine/IndexMemory.lean: ANNN, FX1E, FX29, FX33, FX55, FX65 (43_index_memory.md). Every data address
comes from I; the bounds of the whole extent are checked before the first write (R66, conflict C9). -/

namespace Sys2Proof.Machine

/-- R201. -/
def effectStoreIndex (nnn : Addr12) (s : State) : Effect := done { s with index := addressOf nnn } .advance

def execStoreIndex (nnn : Addr12) (s : State) : Host.Outcome State Fault Refusal := finish (effectStoreIndex nnn s)

/-- R202: modulo 65536, VF not written (decision D11, logs 6 and 7). -/
def effectAddToIndex (x : Reg) (s : State) : Effect :=
  done { s with index := s.index + promote (s.readReg x) } .advance

def execAddToIndex (x : Reg) (s : State) : Host.Outcome State Fault Refusal := finish (effectAddToIndex x s)

/-- R203 (decisions D4, D12, logs 2 and 8). -/
def effectFontAddress (x : Reg) (s : State) : Effect :=
  done { s with index := glyphAddress (glyphNumber Config.fontIndexMode (s.readReg x)) } .advance

def execFontAddress (x : Reg) (s : State) : Host.Outcome State Fault Refusal := finish (effectFontAddress x s)

/-- R204: hundreds, tens and ones to I, I+1, I+2; I unchanged (error kind: decision D16, log 12). -/
def effectStoreBCD (x : Reg) (s : State) : Effect :=
  match memWrite s.mem s.index.toNat (bcdDigits (s.readReg x)) with
  | .ok m => done { s with mem := m } .advance
  | .error f => raise f

def execStoreBCD (x : Reg) (s : State) : Host.Outcome State Fault Refusal := finish (effectStoreBCD x s)

/-- R205: V[i] to I + i for i in 0..X, then I moves past them (error kind: decision D16, log 12). -/
def effectStoreRegisters (x : Reg) (s : State) : Effect :=
  match memWrite s.mem s.index.toNat (regsUpTo s x) with
  | .ok m => done { s with mem := m, index := indexPast s x } .advance
  | .error f => raise f

def execStoreRegisters (x : Reg) (s : State) : Host.Outcome State Fault Refusal := finish (effectStoreRegisters x s)

/-- R206: V[i] from I + i for i in 0..X, then I moves past them (error kind: decision D16, log 12). -/
def effectLoadRegisters (x : Reg) (s : State) : Effect :=
  match memRead .outOfBoundAddress s.mem s.index.toNat (x.val + 1) with
  | .ok bytes => done { s with v := loadRegsFrom s.v 0 bytes, index := indexPast s x } .advance
  | .error f => raise f

def execLoadRegisters (x : Reg) (s : State) : Host.Outcome State Fault Refusal := finish (effectLoadRegisters x s)

end Sys2Proof.Machine
end

