-- ==== Sys2Proof/Machine/RandomTimerKeypad.lean ====
section
/-! DEFINITION. Machine/RandomTimerKeypad.lean: CXNN, FX07, FX15, FX18, EX9E, EXA1, FX0A
(44_random_timer_keypad.md). None can raise (R220). -/

namespace Sys2Proof.Machine

/-- R221 for the draw `r`: any byte. -/
def effectRandomOf (r : Byte) (x : Reg) (nn : Byte) (s : State) : Effect :=
  done { s.writeReg x (r &&& nn) with draws := s.draws + 1 } .advance

/-- R221: the draw is the free value of this step (decision D23, log 3). -/
def effectRandom (x : Reg) (nn : Byte) (s : State) : Effect := effectRandomOf (Config.drawByte s.draws) x nn s

def execRandom (x : Reg) (nn : Byte) (s : State) : Host.Outcome State Fault Refusal := finish (effectRandom x nn s)

/-- R222. -/
def effectLoadDelayTimer (x : Reg) (s : State) : Effect := done (s.writeReg x s.dt) .advance

def execLoadDelayTimer (x : Reg) (s : State) : Host.Outcome State Fault Refusal := finish (effectLoadDelayTimer x s)

/-- R223. -/
def effectSetDelayTimer (x : Reg) (s : State) : Effect := done { s with dt := s.readReg x } .advance

def execSetDelayTimer (x : Reg) (s : State) : Host.Outcome State Fault Refusal := finish (effectSetDelayTimer x s)

/-- R224. -/
def effectSetSoundTimer (x : Reg) (s : State) : Effect := done { s with st := s.readReg x } .advance

def execSetSoundTimer (x : Reg) (s : State) : Host.Outcome State Fault Refusal := finish (effectSetSoundTimer x s)

/-- R225: on the steady state, not the edge set. -/
def effectSkipIfKeyPressed (x : Reg) (s : State) : Effect :=
  done s (skipIf (keyHeld Config.keyIndexMode s (s.readReg x)))

def execSkipIfKeyPressed (x : Reg) (s : State) : Host.Outcome State Fault Refusal :=
  finish (effectSkipIfKeyPressed x s)

/-- R226: the negation of EX9E's condition (conflict C5). -/
def effectSkipIfKeyNotPressed (x : Reg) (s : State) : Effect :=
  done s (skipIf (!keyHeld Config.keyIndexMode s (s.readReg x)))

def execSkipIfKeyNotPressed (x : Reg) (s : State) : Host.Outcome State Fault Refusal :=
  finish (effectSkipIfKeyNotPressed x s)

/-- R227: the least key of the edge set, or Wait; the edge set stays (decision D20, log 22). -/
def effectWaitForKey (x : Reg) (s : State) : Effect :=
  match justPressed s with
  | some k => done (s.writeReg x (keyByte k)) .advance
  | none => done s .wait

def execWaitForKey (x : Reg) (s : State) : Host.Outcome State Fault Refusal := finish (effectWaitForKey x s)

end Sys2Proof.Machine
end

