-- ==== Sys2Proof/Machine/Skip.lean ====
section
/-! DEFINITION. Machine/Skip.lean: 3XNN, 4XNN, 5XY0, 9XY0 (41_skip.md). They write nothing and cannot raise (R160). -/

namespace Sys2Proof.Machine

/-- R161. -/
def effectSkipIfEqualValue (x : Reg) (nn : Byte) (s : State) : Effect := done s (skipIf (s.readReg x == nn))

def execSkipIfEqualValue (x : Reg) (nn : Byte) (s : State) : Host.Outcome State Fault Refusal :=
  finish (effectSkipIfEqualValue x nn s)

/-- R162. -/
def effectSkipIfNotEqualValue (x : Reg) (nn : Byte) (s : State) : Effect := done s (skipIf (s.readReg x != nn))

def execSkipIfNotEqualValue (x : Reg) (nn : Byte) (s : State) : Host.Outcome State Fault Refusal :=
  finish (effectSkipIfNotEqualValue x nn s)

/-- R163. -/
def effectSkipIfEqualRegister (x y : Reg) (s : State) : Effect := done s (skipIf (s.readReg x == s.readReg y))

def execSkipIfEqualRegister (x y : Reg) (s : State) : Host.Outcome State Fault Refusal :=
  finish (effectSkipIfEqualRegister x y s)

/-- R164. -/
def effectSkipIfNotEqualRegister (x y : Reg) (s : State) : Effect := done s (skipIf (s.readReg x != s.readReg y))

def execSkipIfNotEqualRegister (x y : Reg) (s : State) : Host.Outcome State Fault Refusal :=
  finish (effectSkipIfNotEqualRegister x y s)

end Sys2Proof.Machine
end

