-- ==== Sys2Proof/Machine/Dispatch.lean ====
section
/-! DEFINITION. Machine/Dispatch.lean: one arm per instruction, in the order of spec/opcode_table.json. -/

namespace Sys2Proof.Machine

def exec (i : Instr) (s : State) : Host.Outcome State Fault Refusal :=
  match i with
  | .clearScreen => Sys2Proof.Machine.execClearScreen s
  | .ret => Sys2Proof.Machine.execReturn s
  | .executeMachineCode nnn => Sys2Proof.Machine.execExecuteMachineCode nnn s
  | .jump nnn => Sys2Proof.Machine.execJump nnn s
  | .call nnn => Sys2Proof.Machine.execCall nnn s
  | .skipIfEqualValue x nn => Sys2Proof.Machine.execSkipIfEqualValue x nn s
  | .skipIfNotEqualValue x nn => Sys2Proof.Machine.execSkipIfNotEqualValue x nn s
  | .skipIfEqualRegister x y => Sys2Proof.Machine.execSkipIfEqualRegister x y s
  | .storeValue x nn => Sys2Proof.Machine.execStoreValue x nn s
  | .addValue x nn => Sys2Proof.Machine.execAddValue x nn s
  | .storeRegister x y => Sys2Proof.Machine.execStoreRegister x y s
  | .orRegister x y => Sys2Proof.Machine.execOrRegister x y s
  | .andRegister x y => Sys2Proof.Machine.execAndRegister x y s
  | .xorRegister x y => Sys2Proof.Machine.execXorRegister x y s
  | .addRegister x y => Sys2Proof.Machine.execAddRegister x y s
  | .subRegister x y => Sys2Proof.Machine.execSubRegister x y s
  | .shiftRight x y => Sys2Proof.Machine.execShiftRight x y s
  | .subRegisterReversed x y => Sys2Proof.Machine.execSubRegisterReversed x y s
  | .shiftLeft x y => Sys2Proof.Machine.execShiftLeft x y s
  | .skipIfNotEqualRegister x y => Sys2Proof.Machine.execSkipIfNotEqualRegister x y s
  | .storeIndex nnn => Sys2Proof.Machine.execStoreIndex nnn s
  | .jumpWithOffset nnn => Sys2Proof.Machine.execJumpWithOffset nnn s
  | .random x nn => Sys2Proof.Machine.execRandom x nn s
  | .drawSprite x y n => Sys2Proof.Machine.execDrawSprite x y n s
  | .skipIfKeyPressed x => Sys2Proof.Machine.execSkipIfKeyPressed x s
  | .skipIfKeyNotPressed x => Sys2Proof.Machine.execSkipIfKeyNotPressed x s
  | .loadDelayTimer x => Sys2Proof.Machine.execLoadDelayTimer x s
  | .waitForKey x => Sys2Proof.Machine.execWaitForKey x s
  | .setDelayTimer x => Sys2Proof.Machine.execSetDelayTimer x s
  | .setSoundTimer x => Sys2Proof.Machine.execSetSoundTimer x s
  | .addToIndex x => Sys2Proof.Machine.execAddToIndex x s
  | .fontAddress x => Sys2Proof.Machine.execFontAddress x s
  | .storeBCD x => Sys2Proof.Machine.execStoreBCD x s
  | .storeRegisters x => Sys2Proof.Machine.execStoreRegisters x s
  | .loadRegisters x => Sys2Proof.Machine.execLoadRegisters x s

end Sys2Proof.Machine
end

