-- ==== Sys2Proof/Machine/Step.lean ====
section
/-! DEFINITION. Machine/Step.lean: one step is one tick (10_state.md R27): fetch, decode, execute, and the pc update
that exec ends with. The checks come in the order of 60_exceptions.md R265. -/

namespace Sys2Proof.Machine

def step (s : State) : Host.Outcome State Fault Refusal :=
  match fetchInstr s with
  | .ok i => exec i s
  | .error f => .fault f

/-- The state with the word placed where the next step fetches it (logs 18 and 19). -/
def State.withFetchWord (s : State) (nbits w : Nat) : State := placeWord s (tableWord nbits w)

end Sys2Proof.Machine
end

