-- ==== Sys2Proof/Machine/Tick.lean ====
section
/-! DEFINITION. Machine/Tick.lean: the tick with the result it returns to the driver (10_state.md R27, R38;
60_exceptions.md R262, R276). `Machine.step` is the same tick without its flow directive, in the host's form. -/

namespace Sys2Proof.Machine

/-- Execute(instr) of R27: the instruction's own effect, pc not yet moved. -/
def execute (i : Instr) (s : State) : Effect :=
  match i with
  | .clearScreen => effectClearScreen s
  | .ret => effectReturn s
  | .executeMachineCode nnn => effectExecuteMachineCode nnn s
  | .jump nnn => effectJump nnn s
  | .call nnn => effectCall nnn s
  | .skipIfEqualValue x nn => effectSkipIfEqualValue x nn s
  | .skipIfNotEqualValue x nn => effectSkipIfNotEqualValue x nn s
  | .skipIfEqualRegister x y => effectSkipIfEqualRegister x y s
  | .storeValue x nn => effectStoreValue x nn s
  | .addValue x nn => effectAddValue x nn s
  | .storeRegister x y => effectStoreRegister x y s
  | .orRegister x y => effectOrRegister x y s
  | .andRegister x y => effectAndRegister x y s
  | .xorRegister x y => effectXorRegister x y s
  | .addRegister x y => effectAddRegister x y s
  | .subRegister x y => effectSubRegister x y s
  | .shiftRight x y => effectShiftRight x y s
  | .subRegisterReversed x y => effectSubRegisterReversed x y s
  | .shiftLeft x y => effectShiftLeft x y s
  | .skipIfNotEqualRegister x y => effectSkipIfNotEqualRegister x y s
  | .storeIndex nnn => effectStoreIndex nnn s
  | .jumpWithOffset nnn => effectJumpWithOffset nnn s
  | .random x nn => effectRandom x nn s
  | .drawSprite x y n => effectDrawSprite x y n s
  | .skipIfKeyPressed x => effectSkipIfKeyPressed x s
  | .skipIfKeyNotPressed x => effectSkipIfKeyNotPressed x s
  | .loadDelayTimer x => effectLoadDelayTimer x s
  | .waitForKey x => effectWaitForKey x s
  | .setDelayTimer x => effectSetDelayTimer x s
  | .setSoundTimer x => effectSetSoundTimer x s
  | .addToIndex x => effectAddToIndex x s
  | .fontAddress x => effectFontAddress x s
  | .storeBCD x => effectStoreBCD x s
  | .storeRegisters x => effectStoreRegisters x s
  | .loadRegisters x => effectLoadRegisters x s

/-- The tick of R27: the state after it and the flow directive, or the error kind; never both (R262). -/
def tick (s : State) : Except Fault (State × Flow) :=
  match fetchInstr s with
  | .error f => .error f
  | .ok i =>
    match execute i s with
    | .error f => .error f
    | .ok (t, f) => .ok (t.follow f, f)

/-- What a tick returns to the driver (R276). -/
def tickResult (s : State) : Except Fault Flow :=
  match tick s with
  | .ok (_, f) => .ok f
  | .error f => .error f

/-- The state after a tick: a failed tick leaves it exactly as it was (R10, R263). -/
def afterTick (s : State) : State :=
  match tick s with
  | .ok (t, _) => t
  | .error _ => s

/-- The outer-loop status of R38: an output, not a stored bit (decision D26, log 15). -/
inductive Status where
  | running
  | waiting
deriving DecidableEq, Repr

/-- "Waiting exactly when the last tick returned Wait" (R38); none is no tick yet, Running at construction (R41). -/
def Status.after : Option (Except Fault Flow) → Status
  | some (.ok .wait) => .waiting
  | _ => .running

end Sys2Proof.Machine
end

