-- ==== Sys2Proof/Machine/Driver.lean ====
section
/-! DEFINITION. Machine/Driver.lean: the host interface (60_exceptions.md R270 to R283) and the frame procedure
(70_reset_and_hazards.md R326). Every operation is one atomic step on the state (00_scope.md R6); construct is
`State.reset` (R271). -/

namespace Sys2Proof.Machine

/-- load_program of R272: the bytes to 0x200 on, or ProgramTooLarge and nothing copied (decision D18, log 23). -/
def loadProgram (bytes : List Byte) (s : State) : Except Fault State :=
  if bytes.length ≤ Config.programMax then
    .ok { s with mem := s.mem.writeBytes Config.programBase bytes }
  else .error .programTooLarge

/-- press of R273: an edge is recorded only on a transition from released to pressed. -/
def press (k : Key) (s : State) : State :=
  { s with jp := if s.key[k] then s.jp else s.jp.set k true, key := s.key.set k true }

/-- release of R274, in both readings of `RELEASE_CLEARS_EDGE` (U13). -/
def releaseWith (clearsEdge : Bool) (k : Key) (s : State) : State :=
  { s with key := s.key.set k false, jp := if clearsEdge then s.jp.set k false else s.jp }

/-- release of R274: the edge set is not changed (decision D19, log 22). -/
def release (k : Key) (s : State) : State := releaseWith Config.releaseClearsEdge k s

/-- Keypad reset of R275: the edge set only. -/
def keypadReset (s : State) : State := { s with jp := Vector.replicate 16 false }

/-- One timer's decrement, saturating (R29, R277). -/
def countDown (b : Byte) : Byte := if b = 0x00#8 then 0x00#8 else b - 1#8

/-- decrement_timers of R277: both timers. -/
def decrementTimers (s : State) : State := { s with dt := countDown s.dt, st := countDown s.st }

/-- The screen read of R280: FB, no side effect. -/
def screenRead (s : State) : Screen := s.fb

/-- The sound gate of R281. -/
def soundActive (s : State) : Bool := decide (0 < s.st.toNat)

/-- The numeric code of an error kind (R260; decision D17, log 16). -/
def Fault.code : Fault → Nat
  | .stackOverflow => 1
  | .stackUnderflow => 2
  | .outOfBoundAddress => 3
  | .outOfBoundRange => 4
  | .unimplementedInstruction => 5
  | .unknownInstruction => 6
  | .programTooLarge => 7

/-! ### Any interleaving of the two agents -/

/-- What either agent can do to the machine after construction: the core's tick, or a state-changing operation of the
driver (R6, R283). -/
inductive Action where
  | tick
  | loadProgram (bytes : List Byte)
  | press (k : Key)
  | release (k : Key)
  | keypadReset
  | decrementTimers
deriving DecidableEq, Repr

/-- One action, one atomic step. -/
def act : Action → State → Host.Outcome State Fault Refusal
  | .tick, s => step s
  | .loadProgram bytes, s =>
    match loadProgram bytes s with
    | .ok t => .next t
    | .error f => .fault f
  | .press k, s => .next (press k s)
  | .release k, s => .next (release k s)
  | .keypadReset, s => .next (keypadReset s)
  | .decrementTimers, s => .next (decrementTimers s)

/-- The state after an action: one that fails changes nothing (R10, R263). -/
def afterAct (a : Action) (s : State) : State :=
  match act a s with
  | .next t => t
  | .fault _ => s
  | .refused _ => s

/-- Any sequence of actions; after a failure the driver may go on (R266). -/
def runActions : List Action → State → State
  | [], s => s
  | a :: as, s => runActions as (afterAct a s)

/-! ### The frame procedure -/

/-- At most `budget` ticks, stopping early on Wait; an error stops the run with the state as it is (R264, R326). -/
def tickBatch : Nat → State → Except (Fault × State) State
  | 0, s => .ok s
  | budget + 1, s =>
    match tick s with
    | .error f => .error (f, s)
    | .ok (t, .wait) => .ok t
    | .ok (t, _) => tickBatch budget t

/-- frame() of R326 with a tick budget: the batch, the timer decrement, the keypad reset. -/
def frameOf (budget : Nat) (s : State) : Except (Fault × State) State :=
  match tickBatch budget s with
  | .ok t => .ok (keypadReset (decrementTimers t))
  | .error e => .error e

/-- frame() of R326 with the driver's own budget, which the spec leaves open (R327; decision D22, log 26). -/
def frame (s : State) : Except (Fault × State) State := frameOf Config.ticksPerFrame s

end Sys2Proof.Machine
end

