-- ==== Sys2Proof/Safety.lean ====
section
/-! DEFINITION. Safety.lean: the terms claims are stated in: the invariant of every reachable state, a tick that
completes, and what an instruction leaves unchanged. -/

namespace Sys2Proof.Machine

/-- What holds in every state a run from construction reaches, and every action of either agent keeps: memory in its
canonical form, at most 12 stack entries (R31), pc at most 0x10FE and every saved return address at most 0x1000
(R28). -/
structure State.Inv (s : State) : Prop where
  mem_wf : s.mem.wf
  depth_le : s.depth ≤ Config.stackCapacity
  pc_le : s.pc.toNat ≤ 0x10FE
  return_le : ∀ a ∈ s.stack, a.toNat ≤ 0x1000

/-- The tick of `s` completes: no error kind. -/
def State.Completes (s : State) : Prop := ∃ t, step s = .next t

/-! ### What stays as it was -/

def SameRegs (s t : State) : Prop := ∀ r, t.readReg r = s.readReg r
def SameIndex (s t : State) : Prop := t.index = s.index
def SameTimers (s t : State) : Prop := t.dt = s.dt ∧ t.st = s.st
def SameStack (s t : State) : Prop := t.stack = s.stack
/-- Every byte of memory reads as before. -/
def SameMem (s t : State) : Prop := ∀ a, t.mem.read a = s.mem.read a
def SameKeys (s t : State) : Prop := t.key = s.key ∧ t.jp = s.jp
def SameScreen (s t : State) : Prop := ∀ y x, Screen.pixel t.fb y x = Screen.pixel s.fb y x
/-- No random byte was drawn. -/
def SameDraws (s t : State) : Prop := t.draws = s.draws

/-- Every V register but `x` reads as before. -/
def SameRegsBut (x : Reg) (s t : State) : Prop := ∀ r, r ≠ x → t.readReg r = s.readReg r

/-- Every V register but `x` and VF reads as before. -/
def SameRegsButFlag (x : Reg) (s t : State) : Prop := ∀ r, r ≠ x → r ≠ vf → t.readReg r = s.readReg r

/-- Nothing but V registers and pc changed. -/
def OnlyRegs (s t : State) : Prop :=
  SameIndex s t ∧ SameTimers s t ∧ SameStack s t ∧ SameMem s t ∧ SameKeys s t ∧ SameScreen s t ∧ SameDraws s t

/-- Nothing but pc changed. -/
def OnlyPc (s t : State) : Prop := SameRegs s t ∧ OnlyRegs s t

/-- Nothing but I and pc changed. -/
def OnlyIndex (s t : State) : Prop :=
  SameRegs s t ∧ SameTimers s t ∧ SameStack s t ∧ SameMem s t ∧ SameKeys s t ∧ SameScreen s t ∧ SameDraws s t

/-- Nothing but memory, I and pc changed. -/
def OnlyMemIndex (s t : State) : Prop :=
  SameRegs s t ∧ SameTimers s t ∧ SameStack s t ∧ SameKeys s t ∧ SameScreen s t ∧ SameDraws s t

/-- Nothing but the stack and pc changed. -/
def OnlyStack (s t : State) : Prop :=
  SameRegs s t ∧ SameIndex s t ∧ SameTimers s t ∧ SameMem s t ∧ SameKeys s t ∧ SameScreen s t ∧ SameDraws s t

/-- Nothing but the timers and pc changed. -/
def OnlyTimers (s t : State) : Prop :=
  SameRegs s t ∧ SameIndex s t ∧ SameStack s t ∧ SameMem s t ∧ SameKeys s t ∧ SameScreen s t ∧ SameDraws s t

/-- Nothing but the screen, V registers and pc changed. -/
def OnlyScreenRegs (s t : State) : Prop :=
  SameIndex s t ∧ SameTimers s t ∧ SameStack s t ∧ SameMem s t ∧ SameKeys s t ∧ SameDraws s t

/-- pc is past the instruction: the directive was Advance (R26). -/
def Advances (s t : State) : Prop := t.pc = s.pc + 2#16

/-- pc skips the next instruction when `c` holds, and is past this one otherwise (R26, R160). -/
def SkipsIff (c : Bool) (s t : State) : Prop := t.pc = if c then s.pc + 4#16 else s.pc + 2#16

/-! ### The set bits of a sprite on the screen -/

/-- Does a sprite with these rows, its top-left pixel at `(x0, y0)`, have a set bit at the on-screen pixel `(x, y)`?
(R242, R243: naturals, not reduced.) -/
def spriteCovers (rows : List Byte) (x0 y0 : Nat) (y : Fin 32) (x : Fin 64) : Bool :=
  decide (x0 ≤ x.val ∧ x.val < x0 + 8 ∧ y0 ≤ y.val) &&
    match rows[y.val - y0]? with
    | some row => row.getLsbD (7 - (x.val - x0))
    | none => false

/-! ### The opcode map and the call stack, as claims speak of them -/

/-- Fields X, Y, N, NN, NNN of a word (R102). -/
def fieldX (w : Word) : Reg := nibbleIndex (w.extractLsb' 8 4)
def fieldY (w : Word) : Reg := nibbleIndex (w.extractLsb' 4 4)
def fieldN (w : Word) : Fin 16 := nibbleIndex (w.extractLsb' 0 4)
def fieldNN (w : Word) : Byte := w.extractLsb' 0 8
def fieldNNN (w : Word) : Addr12 := w.extractLsb' 0 12

/-- A row of the opcode map (R107): every word with `w & mask = mtch` decodes to the row's instruction. -/
def RowDecodes (mask mtch : Word) (instr : Word → Instr) : Prop :=
  ∀ w : Word, w &&& mask = mtch → decodeWord w = .ok (instr w)

/-- Push the addresses in order, the first first (R32). -/
def pushAll : List Config.StackEntry → State → Except Fault State
  | [], s => .ok s
  | a :: as, s =>
    match push a s with
    | .ok t => pushAll as t
    | .error f => .error f

/-- Pop `n` times: the addresses in the order they come (R33). -/
def popAll : Nat → State → Except Fault (List Config.StackEntry × State)
  | 0, s => .ok ([], s)
  | n + 1, s =>
    match pop s with
    | .error f => .error f
    | .ok (a, t) =>
      match popAll n t with
      | .error f => .error f
      | .ok (as, u) => .ok (a :: as, u)

/-- The next state of an outcome, changed by `g`; a fault or refusal as it is. -/
def mapNext (g : State → State) : Host.Outcome State Fault Refusal → Host.Outcome State Fault Refusal
  | .next t => .next (g t)
  | .fault f => .fault f
  | .refused r => .refused r

/-- The instructions that write VF as a flag (R22). -/
def setsFlag : Instr → Bool
  | .addRegister _ _ | .subRegister _ _ | .subRegisterReversed _ _ => true
  | .shiftRight _ _ | .shiftLeft _ _ | .drawSprite _ _ _ => true
  | _ => false

/-- The instruction has V[r] among its destinations: X of every instruction that writes V[X], V0 to VX of FX65 (R22,
R206). The flag is not counted. -/
def writesReg (r : Reg) : Instr → Bool
  | .storeValue x _ | .addValue x _ | .random x _ => x == r
  | .storeRegister x _ | .orRegister x _ | .andRegister x _ | .xorRegister x _ => x == r
  | .addRegister x _ | .subRegister x _ | .subRegisterReversed x _ | .shiftRight x _ | .shiftLeft x _ => x == r
  | .loadDelayTimer x | .waitForKey x => x == r
  | .loadRegisters x => decide (r ≤ x)
  | _ => false

end Sys2Proof.Machine
end

