-- ==== Sys2Proof/Certificates/Slice0/Obligations.lean ====
section
/-! DEFINITION. Certificates/Slice0/Obligations.lean: the statements for the provers. Where a docstring names a decision
D<n>, the clause rests on a choice the spec marks as its own (spec/92_eei_decisions.md), logged under the number given.
The opcode patterns in the statements are the spec's rules, marked there "from general knowledge" where the source does
not show them (R105, log 5). -/

open Sys2Proof Sys2Proof.Machine

/-! ### Encoding and decoding -/

/-- Decoding the bytes of any well-formed instruction gives it back, with every operand, and leaves the bytes after it
alone (30_encoding.md sections 1, 3, 4; the patterns are decision D6, log 5). -/
def Obligations.DecodeOfEncodeIsIdentity : Prop :=
  ∀ (i : Instr) (rest : List Byte), i.wf = true → decodeBytes (encode i ++ rest) = .ok (i, rest)

/-- Every two bytes that decode stand for one well-formed instruction, whose encoding they are (30_encoding.md sections
3, 4; the patterns are decision D6, log 5). -/
def Obligations.EncodeOfDecodeIsIdentity : Prop :=
  ∀ (b0 b1 : Byte) (rest rest' : List Byte) (i : Instr),
    decodeBytes (b0 :: b1 :: rest) = .ok (i, rest') → i.wf = true ∧ rest' = rest ∧ encode i = [b0, b1]

/-- The unknown words are exactly those of R108, which the spec derives from its table (decision D6, log 5). -/
def Obligations.UnknownWordsAreExactlyTheListed : Prop :=
  ∀ q : Nibbles, decode q = .error .unknownInstruction ↔
    (q.n0 = 0x5#4 ∧ q.n3 ≠ 0x0#4) ∨
    (q.n0 = 0x8#4 ∧ q.n3 ∈ [0x8#4, 0x9#4, 0xA#4, 0xB#4, 0xC#4, 0xD#4, 0xF#4]) ∨
    (q.n0 = 0x9#4 ∧ q.n3 ≠ 0x0#4) ∨
    (q.n0 = 0xE#4 ∧ (q.n2, q.n3) ∉ [(0x9#4, 0xE#4), (0xA#4, 0x1#4)]) ∨
    (q.n0 = 0xF#4 ∧ (q.n2, q.n3) ∉ [(0x0#4, 0x7#4), (0x0#4, 0xA#4), (0x1#4, 0x5#4), (0x1#4, 0x8#4), (0x1#4, 0xE#4),
      (0x2#4, 0x9#4), (0x3#4, 0x3#4), (0x5#4, 0x5#4), (0x6#4, 0x5#4)])

/-- Every row of the opcode map by its mask and match (R107; the patterns are decision D6, log 5); row 3 is tried after
rows 1 and 2. -/
def Obligations.OpcodeMapRowsDecode : Prop :=
  RowDecodes 0xFFFF#16 0x00E0#16 (fun _ => .clearScreen) ∧
  RowDecodes 0xFFFF#16 0x00EE#16 (fun _ => .ret) ∧
  (∀ w : Word, w &&& 0xF000#16 = 0x0000#16 → w ≠ 0x00E0#16 → w ≠ 0x00EE#16 →
    decodeWord w = .ok (.executeMachineCode (fieldNNN w))) ∧
  RowDecodes 0xF000#16 0x1000#16 (fun w => .jump (fieldNNN w)) ∧
  RowDecodes 0xF000#16 0x2000#16 (fun w => .call (fieldNNN w)) ∧
  RowDecodes 0xF000#16 0x3000#16 (fun w => .skipIfEqualValue (fieldX w) (fieldNN w)) ∧
  RowDecodes 0xF000#16 0x4000#16 (fun w => .skipIfNotEqualValue (fieldX w) (fieldNN w)) ∧
  RowDecodes 0xF00F#16 0x5000#16 (fun w => .skipIfEqualRegister (fieldX w) (fieldY w)) ∧
  RowDecodes 0xF000#16 0x6000#16 (fun w => .storeValue (fieldX w) (fieldNN w)) ∧
  RowDecodes 0xF000#16 0x7000#16 (fun w => .addValue (fieldX w) (fieldNN w)) ∧
  RowDecodes 0xF00F#16 0x8000#16 (fun w => .storeRegister (fieldX w) (fieldY w)) ∧
  RowDecodes 0xF00F#16 0x8001#16 (fun w => .orRegister (fieldX w) (fieldY w)) ∧
  RowDecodes 0xF00F#16 0x8002#16 (fun w => .andRegister (fieldX w) (fieldY w)) ∧
  RowDecodes 0xF00F#16 0x8003#16 (fun w => .xorRegister (fieldX w) (fieldY w)) ∧
  RowDecodes 0xF00F#16 0x8004#16 (fun w => .addRegister (fieldX w) (fieldY w)) ∧
  RowDecodes 0xF00F#16 0x8005#16 (fun w => .subRegister (fieldX w) (fieldY w)) ∧
  RowDecodes 0xF00F#16 0x8006#16 (fun w => .shiftRight (fieldX w) (fieldY w)) ∧
  RowDecodes 0xF00F#16 0x8007#16 (fun w => .subRegisterReversed (fieldX w) (fieldY w)) ∧
  RowDecodes 0xF00F#16 0x800E#16 (fun w => .shiftLeft (fieldX w) (fieldY w)) ∧
  RowDecodes 0xF00F#16 0x9000#16 (fun w => .skipIfNotEqualRegister (fieldX w) (fieldY w)) ∧
  RowDecodes 0xF000#16 0xA000#16 (fun w => .storeIndex (fieldNNN w)) ∧
  RowDecodes 0xF000#16 0xB000#16 (fun w => .jumpWithOffset (fieldNNN w)) ∧
  RowDecodes 0xF000#16 0xC000#16 (fun w => .random (fieldX w) (fieldNN w)) ∧
  RowDecodes 0xF000#16 0xD000#16 (fun w => .drawSprite (fieldX w) (fieldY w) (fieldN w)) ∧
  RowDecodes 0xF0FF#16 0xE09E#16 (fun w => .skipIfKeyPressed (fieldX w)) ∧
  RowDecodes 0xF0FF#16 0xE0A1#16 (fun w => .skipIfKeyNotPressed (fieldX w)) ∧
  RowDecodes 0xF0FF#16 0xF007#16 (fun w => .loadDelayTimer (fieldX w)) ∧
  RowDecodes 0xF0FF#16 0xF00A#16 (fun w => .waitForKey (fieldX w)) ∧
  RowDecodes 0xF0FF#16 0xF015#16 (fun w => .setDelayTimer (fieldX w)) ∧
  RowDecodes 0xF0FF#16 0xF018#16 (fun w => .setSoundTimer (fieldX w)) ∧
  RowDecodes 0xF0FF#16 0xF01E#16 (fun w => .addToIndex (fieldX w)) ∧
  RowDecodes 0xF0FF#16 0xF029#16 (fun w => .fontAddress (fieldX w)) ∧
  RowDecodes 0xF0FF#16 0xF033#16 (fun w => .storeBCD (fieldX w)) ∧
  RowDecodes 0xF0FF#16 0xF055#16 (fun w => .storeRegisters (fieldX w)) ∧
  RowDecodes 0xF0FF#16 0xF065#16 (fun w => .loadRegisters (fieldX w))

/-- A word of each family, written out from its pattern (95_test_vectors.md S0, S8, S9, E2, E8, E10, E16, E19, E20,
X23). -/
def Obligations.SampleWordsDecode : Prop :=
  decodeBytes [0x61#8, 0x05#8] = .ok (.storeValue 1 0x05#8, []) ∧
  decodeBytes [0x71#8, 0x03#8] = .ok (.addValue 1 0x03#8, []) ∧
  decodeBytes [0x3A#8, 0x7F#8] = .ok (.skipIfEqualValue 0xA 0x7F#8, []) ∧
  decodeBytes [0x00#8, 0xEE#8] = .ok (.ret, []) ∧
  decodeBytes [0xBA#8, 0xBC#8] = .ok (.jumpWithOffset 0xABC#12, []) ∧
  decodeBytes [0xD1#8, 0x25#8] = .ok (.drawSprite 1 2 5, []) ∧
  decodeBytes [0xDA#8, 0xBC#8] = .ok (.drawSprite 0xA 0xB 0xC, []) ∧
  decodeBytes [0xE1#8, 0x9E#8] = .ok (.skipIfKeyPressed 1, []) ∧
  decodeBytes [0xF3#8, 0x0A#8] = .ok (.waitForKey 3, []) ∧
  decodeBytes [0xF2#8, 0x65#8] = .ok (.loadRegisters 2, []) ∧
  decodeBytes [0x81#8, 0x2F#8] = .error .unknownInstruction ∧
  decodeBytes [0xFF#8, 0xFF#8] = .error .unknownInstruction

/-- R103: NNN is three nibbles and NN two, concatenated; an address is zero-extended to 16 bits and is at most 4095. -/
def Obligations.OperandsAreConcatenatedNibbles : Prop :=
  (∀ n1 n2 n3 : Nibble,
    (assembleAddr n1 n2 n3).toNat = (n1.toNat <<< 8 ||| n2.toNat <<< 4 ||| n3.toNat) ∧
    (addressOf (assembleAddr n1 n2 n3)).toNat = (n1.toNat <<< 8 ||| n2.toNat <<< 4 ||| n3.toNat) ∧
    (addressOf (assembleAddr n1 n2 n3)).toNat ≤ 4095) ∧
  ∀ n2 n3 : Nibble, (assembleByte n2 n3).toNat = (n2.toNat <<< 4 ||| n3.toNat)

/-! ### The tick -/

/-- When the two bytes at pc decode to a well-formed instruction, the step is that instruction's exec; nothing is added
around it, since exec itself ends with the pc update (10_state.md section 3; decision D2, log 15). -/
def Obligations.StepRunsTheDecodedInstruction : Prop :=
  ∀ (s : State) (i : Instr), i.wf = true → s.pc.toNat + 1 ≤ 4095 →
    decodeBytes [s.mem.read s.pc.toNat, s.mem.read (s.pc.toNat + 1)] = .ok (i, []) → step s = exec i s

/-- A tick returns a flow directive with a next state, or an error kind, never both, and `step` is that tick without the
directive: it never refuses (60_exceptions.md sections 2 and 5; decision D2, log 15). -/
def Obligations.StepIsTheTickWithoutItsDirective : Prop :=
  ∀ s : State,
    (∀ t, step s = .next t ↔ ∃ f, tick s = .ok (t, f)) ∧
    (∀ f, step s = .fault f ↔ tick s = .error f) ∧
    ∀ r, step s ≠ .refused r

/-- The directive of a tick says where pc goes; the sums are those of natural numbers: no wrap (10_state.md section 3,
the flow directives; that the tick itself moves pc is decision D2, log 15). -/
def Obligations.FlowDirectiveMovesPc : Prop :=
  ∀ (s t : State) (f : Flow), tick s = .ok (t, f) →
    match f with
    | .advance => t.pc.toNat = s.pc.toNat + 2
    | .skip => t.pc.toNat = s.pc.toNat + 4
    | .goTo a => t.pc = a
    | .wait => t.pc = s.pc

/-- A tick that returns Wait changed nothing, was FX0A with an empty edge set, and returns Wait again
(44_random_timer_keypad.md WaitForKey; 20_memory.md section 4). -/
def Obligations.WaitTickChangesNothing : Prop :=
  ∀ s t : State, tick s = .ok (t, .wait) →
    t = s ∧ step s = .next s ∧ (∃ x, fetchInstr s = .ok (.waitForKey x)) ∧ ∀ k : Key, s.jp[k] = false

/-- R263: a failed tick leaves the state exactly as it was, so that the same tick fails again with the same kind, and no
failing instruction depends on the random draw. -/
def Obligations.FailedTickLeavesNoTrace : Prop :=
  ∀ (s : State) (f : Fault), tickResult s = .error f →
    afterTick s = s ∧ tickResult (afterTick s) = .error f ∧ ∀ k, tickResult { s with draws := k } = .error f

/-- Exactly when a step stops, and with which error kind, in the order fetch, decode, the instruction's own check
(60_exceptions.md section 1; the kinds are decision D16, log 12, 0NNN is D7, log 4, the empty sprite range D15,
log 11). In every other state it gives a next state: it never refuses. -/
def Obligations.StepStopsExactlyOnTheListedErrors : Prop :=
  ∀ s : State, (∀ f, step s = .fault f ↔
    match f with
    | .stackOverflow => ∃ nnn, fetchInstr s = .ok (.call nnn) ∧ 12 ≤ s.depth
    | .stackUnderflow => fetchInstr s = .ok .ret ∧ s.depth = 0
    | .outOfBoundAddress => 4095 ≤ s.pc.toNat ∨
        (∃ x, fetchInstr s = .ok (.storeBCD x) ∧ 4094 ≤ s.index.toNat) ∨
        (∃ x, fetchInstr s = .ok (.storeRegisters x) ∧ 4095 < s.index.toNat + x.val) ∨
        ∃ x, fetchInstr s = .ok (.loadRegisters x) ∧ 4095 < s.index.toNat + x.val
    | .outOfBoundRange => ∃ x y n, fetchInstr s = .ok (.drawSprite x y n) ∧ 4096 < s.index.toNat + n.val
    | .unimplementedInstruction => ∃ nnn, fetchInstr s = .ok (.executeMachineCode nnn)
    | .unknownInstruction => s.pc.toNat < 4095 ∧
        decode (nibblesOf (s.mem.read s.pc.toNat) (s.mem.read (s.pc.toNat + 1))) = .error .unknownInstruction
    | .programTooLarge => False) ∧
  ((∀ f, step s ≠ .fault f) → s.Completes)

/-! ### Control flow -/

/-- 0NNN always stops with UnimplementedInstruction, whatever NNN and the state (40_flow.md; that the opcode is 0NNN is
decision D7, log 4). -/
def Obligations.MachineCodeIsUnimplemented : Prop :=
  ∀ (nnn : Addr12) (s : State), exec (.executeMachineCode nnn) s = .fault .unimplementedInstruction

/-- Return pops the newest entry and goes to it as it is, and fails with StackUnderflow when the stack is empty
(40_flow.md Return; that its pattern is 00EE is the spec's general knowledge, log 5). -/
def Obligations.ReturnGoesToThePoppedAddress : Prop :=
  decode ⟨0x0, 0x0, 0xE, 0xE⟩ = .ok .ret ∧
  (∀ (s : State) (a : Word) (rest : List Config.StackEntry), s.stack = a :: rest →
    ∃ t, exec .ret s = .next t ∧ t.pc = a ∧ t.stack = rest ∧ OnlyStack s t) ∧
  ∀ s : State, s.stack = [] → exec .ret s = .fault .stackUnderflow

/-- Call pushes the address after itself and goes to NNN, and fails with StackOverflow when 12 entries are there
(40_flow.md Call; that its pattern is 2NNN is the spec's general knowledge, log 5). -/
def Obligations.CallPushesTheReturnAddress : Prop :=
  (∀ n1 n2 n3 : Nibble, decode ⟨0x2, n1, n2, n3⟩ = .ok (.call (assembleAddr n1 n2 n3))) ∧
  (∀ (nnn : Addr12) (s : State), s.depth < 12 →
    ∃ t, exec (.call nnn) s = .next t ∧ t.pc.toNat = nnn.toNat ∧ t.stack = (s.pc + 2#16) :: s.stack ∧ OnlyStack s t) ∧
  ∀ (nnn : Addr12) (s : State), 12 ≤ s.depth → exec (.call nnn) s = .fault .stackOverflow

/-- A Call, then a Return, comes back after the Call with the stack and everything else as it was (40_flow.md Call,
Return and section on every control transfer). -/
def Obligations.ReturnAfterCallComesBack : Prop :=
  ∀ (nnn : Addr12) (s : State), s.depth < 12 →
    ∃ t, exec (.call nnn) s = .next t ∧ exec .ret t = .next { s with pc := s.pc + 2#16 }

/-- R32, R33: the stack is last in, first out: pushing a list that fits and popping as often gives it back reversed and
the state as it was; a push on 12 entries fails with StackOverflow, a pop on none with StackUnderflow; only Call, which
adds one entry, and Return, which takes one away, change the stack. -/
def Obligations.StackIsLastInFirstOut : Prop :=
  (∀ (as : List Config.StackEntry) (s : State), s.depth + as.length ≤ 12 →
    ∃ t, pushAll as s = .ok t ∧ t.depth = s.depth + as.length ∧ popAll as.length t = .ok (as.reverse, s)) ∧
  (∀ (a : Word) (s : State), s.depth = 12 → push a s = .error .stackOverflow) ∧
  (∀ s : State, s.depth = 0 → pop s = .error .stackUnderflow) ∧
  ∀ (i : Instr) (s t : State), exec i s = .next t → t.stack ≠ s.stack →
    (∃ nnn a, i = .call nnn ∧ t.stack = a :: s.stack) ∨ ∃ a, i = .ret ∧ s.stack = a :: t.stack

/-- Jump goes to NNN; JumpWithOffset to NNN + V[0] as natural numbers, not reduced to 12 bits (40_flow.md Jump,
JumpWithOffset; decisions D29 and D24, logs 5 and 13). Nothing else changes. -/
def Obligations.JumpsGoToTheirTargets : Prop :=
  (∀ (nnn : Addr12) (s : State),
    ∃ t, exec (.jump nnn) s = .next t ∧ t.pc.toNat = nnn.toNat ∧ OnlyPc s t) ∧
  ∀ (nnn : Addr12) (s : State),
    ∃ t, exec (.jumpWithOffset nnn) s = .next t ∧ t.pc.toNat = nnn.toNat + (s.readReg 0).toNat ∧ OnlyPc s t

/-! ### Skips -/

/-- R161: 3XNN skips exactly when V[X] = NN, and changes nothing but pc. -/
def Obligations.SkipIfEqualValueComparesRegister : Prop :=
  (∀ n1 n2 n3 : Nibble, decode ⟨0x3, n1, n2, n3⟩ = .ok (.skipIfEqualValue (nibbleIndex n1) (assembleByte n2 n3))) ∧
  ∀ (x : Reg) (nn : Byte) (s : State),
    ∃ t, exec (.skipIfEqualValue x nn) s = .next t ∧ SkipsIff (decide (s.readReg x = nn)) s t ∧ OnlyPc s t

/-- 4XNN, 5XY0 and 9XY0 skip exactly when V[X] differs from NN, equals V[Y], differs from V[Y] (41_skip.md; decision
D29, log 5). -/
def Obligations.OtherSkipsCompareRegisters : Prop :=
  (∀ (x : Reg) (nn : Byte) (s : State),
    ∃ t, exec (.skipIfNotEqualValue x nn) s = .next t ∧ SkipsIff (decide (s.readReg x ≠ nn)) s t ∧ OnlyPc s t) ∧
  (∀ (x y : Reg) (s : State),
    ∃ t, exec (.skipIfEqualRegister x y) s = .next t ∧ SkipsIff (decide (s.readReg x = s.readReg y)) s t ∧ OnlyPc s t) ∧
  ∀ (x y : Reg) (s : State),
    ∃ t, exec (.skipIfNotEqualRegister x y) s = .next t ∧
      SkipsIff (decide (s.readReg x ≠ s.readReg y)) s t ∧ OnlyPc s t

/-! ### Registers and arithmetic -/

/-- R171: 6XNN puts NN in V[X] and changes nothing else but pc. -/
def Obligations.StoreValueWritesImmediate : Prop :=
  (∀ n1 n2 n3 : Nibble, decode ⟨0x6, n1, n2, n3⟩ = .ok (.storeValue (nibbleIndex n1) (assembleByte n2 n3))) ∧
  ∀ (x : Reg) (nn : Byte) (s : State),
    ∃ t, exec (.storeValue x nn) s = .next t ∧ t.readReg x = nn ∧ SameRegsBut x s t ∧ OnlyRegs s t ∧ Advances s t

/-- 7XNN adds NN to V[X] modulo 256 and records no carry: VF keeps its value unless it is V[X] (42_alu.md AddValue;
decision D8, log 6). -/
def Obligations.AddValueWrapsWithoutFlag : Prop :=
  ∀ (x : Reg) (nn : Byte) (s : State),
    ∃ t, exec (.addValue x nn) s = .next t ∧ (t.readReg x).toNat = ((s.readReg x).toNat + nn.toNat) % 256 ∧
      SameRegsBut x s t ∧ OnlyRegs s t ∧ Advances s t

/-- 8XY0 copies V[Y] to V[X] (42_alu.md StoreRegister; the pattern is the spec's general knowledge, log 5). -/
def Obligations.StoreRegisterCopiesSource : Prop :=
  (∀ n1 n2 : Nibble, decode ⟨0x8, n1, n2, 0x0⟩ = .ok (.storeRegister (nibbleIndex n1) (nibbleIndex n2))) ∧
  ∀ (x y : Reg) (s : State),
    ∃ t, exec (.storeRegister x y) s = .next t ∧ t.readReg x = s.readReg y ∧
      SameRegsBut x s t ∧ OnlyRegs s t ∧ Advances s t

/-- 8XY1, 8XY2, 8XY3 combine V[X] and V[Y] bit by bit into V[X] and leave VF alone unless it is V[X] (42_alu.md
OrRegister, AndRegister, XorRegister; decision D9, log 6). -/
def Obligations.LogicIsBitwiseWithoutFlag : Prop :=
  (∀ (x y : Reg) (s : State), ∃ t, exec (.orRegister x y) s = .next t ∧
    (∀ k, (t.readReg x).getLsbD k = ((s.readReg x).getLsbD k || (s.readReg y).getLsbD k)) ∧
    SameRegsBut x s t ∧ OnlyRegs s t ∧ Advances s t) ∧
  (∀ (x y : Reg) (s : State), ∃ t, exec (.andRegister x y) s = .next t ∧
    (∀ k, (t.readReg x).getLsbD k = ((s.readReg x).getLsbD k && (s.readReg y).getLsbD k)) ∧
    SameRegsBut x s t ∧ OnlyRegs s t ∧ Advances s t) ∧
  ∀ (x y : Reg) (s : State), ∃ t, exec (.xorRegister x y) s = .next t ∧
    (∀ k, (t.readReg x).getLsbD k = ((s.readReg x).getLsbD k ^^ (s.readReg y).getLsbD k)) ∧
    SameRegsBut x s t ∧ OnlyRegs s t ∧ Advances s t

/-- 8XY4 puts the sum modulo 256 in V[X] and then the carry in VF, both from the old operands; when X is F the flag is
what remains (42_alu.md AddRegister; the pattern is the spec's general knowledge, log 5). -/
def Obligations.AddRegisterSumThenCarry : Prop :=
  (∀ n1 n2 : Nibble, decode ⟨0x8, n1, n2, 0x4⟩ = .ok (.addRegister (nibbleIndex n1) (nibbleIndex n2))) ∧
  ∀ (x y : Reg) (s : State), ∃ t, exec (.addRegister x y) s = .next t ∧
    (x ≠ vf → (t.readReg x).toNat = ((s.readReg x).toNat + (s.readReg y).toNat) % 256) ∧
    t.readReg vf = (if 255 < (s.readReg x).toNat + (s.readReg y).toNat then 0x01#8 else 0x00#8) ∧
    SameRegsButFlag x s t ∧ OnlyRegs s t ∧ Advances s t

/-- 8XY5 puts V[X] - V[Y] modulo 256 in V[X] and then in VF 0 on a borrow, 1 otherwise (42_alu.md SubRegister; the
pattern is the spec's general knowledge, log 5). -/
def Obligations.SubRegisterDifferenceThenNoBorrow : Prop :=
  (∀ n1 n2 : Nibble, decode ⟨0x8, n1, n2, 0x5⟩ = .ok (.subRegister (nibbleIndex n1) (nibbleIndex n2))) ∧
  ∀ (x y : Reg) (s : State), ∃ t, exec (.subRegister x y) s = .next t ∧
    (x ≠ vf → (t.readReg x).toNat = ((s.readReg x).toNat + 256 - (s.readReg y).toNat) % 256) ∧
    t.readReg vf = (if (s.readReg x).toNat < (s.readReg y).toNat then 0x00#8 else 0x01#8) ∧
    SameRegsButFlag x s t ∧ OnlyRegs s t ∧ Advances s t

/-- 8XY6 puts V[Y] shifted right by one in V[X] and then the bit shifted out in VF (42_alu.md ShiftRight; the pattern
is the spec's general knowledge, log 5). -/
def Obligations.ShiftRightHalvesTheSource : Prop :=
  (∀ n1 n2 : Nibble, decode ⟨0x8, n1, n2, 0x6⟩ = .ok (.shiftRight (nibbleIndex n1) (nibbleIndex n2))) ∧
  ∀ (x y : Reg) (s : State), ∃ t, exec (.shiftRight x y) s = .next t ∧
    (x ≠ vf → (t.readReg x).toNat = (s.readReg y).toNat / 2) ∧
    t.readReg vf = (if (s.readReg y).toNat % 2 = 1 then 0x01#8 else 0x00#8) ∧
    SameRegsButFlag x s t ∧ OnlyRegs s t ∧ Advances s t

/-- 8XY7 puts V[Y] - V[X] modulo 256 in V[X] and then in VF 0 on a borrow, 1 otherwise (42_alu.md SubRegisterReversed;
decision D10, log 24). -/
def Obligations.SubReversedDifferenceThenNoBorrow : Prop :=
  ∀ (x y : Reg) (s : State), ∃ t, exec (.subRegisterReversed x y) s = .next t ∧
    (x ≠ vf → (t.readReg x).toNat = ((s.readReg y).toNat + 256 - (s.readReg x).toNat) % 256) ∧
    t.readReg vf = (if (s.readReg y).toNat < (s.readReg x).toNat then 0x00#8 else 0x01#8) ∧
    SameRegsButFlag x s t ∧ OnlyRegs s t ∧ Advances s t

/-- 8XYE puts V[Y] shifted left by one modulo 256 in V[X] and then in VF the bit shifted out as it stands, 0x80 or 0x00
(42_alu.md ShiftLeft; the pattern is the spec's general knowledge, log 5). -/
def Obligations.ShiftLeftDoublesTheSource : Prop :=
  (∀ n1 n2 : Nibble, decode ⟨0x8, n1, n2, 0xE⟩ = .ok (.shiftLeft (nibbleIndex n1) (nibbleIndex n2))) ∧
  ∀ (x y : Reg) (s : State), ∃ t, exec (.shiftLeft x y) s = .next t ∧
    (x ≠ vf → (t.readReg x).toNat = 2 * (s.readReg y).toNat % 256) ∧
    t.readReg vf = (if 128 ≤ (s.readReg y).toNat then 0x80#8 else 0x00#8) ∧
    SameRegsButFlag x s t ∧ OnlyRegs s t ∧ Advances s t

/-- VF as the whole machine sees it: after 8XY4, 8XY5, 8XY6, 8XY7 and DXYN it is 0 or 1, after 8XYE 0 or 0x80, and every
other instruction that does not name it as a destination leaves it alone; any other V register changes only as a named
destination (10_state.md section 1; decisions D8, D9, D11, log 6). -/
def Obligations.RegistersChangeOnlyAsNamed : Prop :=
  ∀ (i : Instr) (s t : State), exec i s = .next t →
    (∀ r, writesReg r i = false → (setsFlag i = true → r ≠ vf) → t.readReg r = s.readReg r) ∧
    (setsFlag i = true → t.readReg vf = 0x00#8 ∨ t.readReg vf = 0x01#8 ∨
      ((∃ x y, i = .shiftLeft x y) ∧ t.readReg vf = 0x80#8)) ∧
    ((∃ x y, i = .shiftLeft x y) → t.readReg vf ≠ 0x01#8)

/-! ### Index and memory -/

/-- ANNN sets I to NNN (43_index_memory.md StoreIndex; decision D29, log 5). -/
def Obligations.StoreIndexSetsIndex : Prop :=
  ∀ (nnn : Addr12) (s : State),
    ∃ t, exec (.storeIndex nnn) s = .next t ∧ t.index.toNat = nnn.toNat ∧ OnlyIndex s t ∧ Advances s t

/-- FX1E adds V[X] to I modulo 65536, past 4095 without error, and leaves VF alone (43_index_memory.md AddToIndex;
decision D11, logs 6 and 7). -/
def Obligations.AddToIndexWrapsAtSixteenBits : Prop :=
  ∀ (x : Reg) (s : State), ∃ t, exec (.addToIndex x) s = .next t ∧
    t.index.toNat = (s.index.toNat + (s.readReg x).toNat) % 65536 ∧ OnlyIndex s t ∧ Advances s t

/-- FX29 sets I to the glyph of V[X]'s low nibble, five bytes a glyph from 0x000 (43_index_memory.md FontAddress;
decisions D4, D12, logs 2 and 8). -/
def Obligations.FontAddressPointsAtGlyph : Prop :=
  ∀ (x : Reg) (s : State), ∃ t, exec (.fontAddress x) s = .next t ∧
    t.index.toNat = 5 * ((s.readReg x).toNat % 16) ∧ OnlyIndex s t ∧ Advances s t

/-- FX33 stores the hundreds, tens and ones of V[X] at I, I+1, I+2, leaves I and every other byte alone, and when
I >= 4094 stops with OutOfBoundAddress (43_index_memory.md StoreBCD; the error kind is decision D16, log 12). -/
def Obligations.StoreBcdWritesThreeDigits : Prop :=
  (∀ (x : Reg) (s : State), s.index.toNat + 3 ≤ 4096 → ∃ t, exec (.storeBCD x) s = .next t ∧
    (t.mem.read s.index.toNat).toNat = (s.readReg x).toNat / 100 ∧
    (t.mem.read (s.index.toNat + 1)).toNat = (s.readReg x).toNat / 10 % 10 ∧
    (t.mem.read (s.index.toNat + 2)).toNat = (s.readReg x).toNat % 10 ∧
    (∀ a, a < s.index.toNat ∨ s.index.toNat + 3 ≤ a → t.mem.read a = s.mem.read a) ∧
    SameIndex s t ∧ OnlyMemIndex s t ∧ Advances s t) ∧
  ∀ (x : Reg) (s : State), 4096 < s.index.toNat + 3 → exec (.storeBCD x) s = .fault .outOfBoundAddress

/-- FX55 stores V[0] to V[X] at I to I + X, leaves every other byte alone, moves I past them, and when I + X > 4095 stops
with OutOfBoundAddress (43_index_memory.md StoreRegisters; the error kind is decision D16, log 12). -/
def Obligations.StoreRegistersWritesBlock : Prop :=
  (∀ (x : Reg) (s : State), s.index.toNat + x.val + 1 ≤ 4096 → ∃ t, exec (.storeRegisters x) s = .next t ∧
    (∀ r : Reg, r ≤ x → t.mem.read (s.index.toNat + r.val) = s.readReg r) ∧
    (∀ a, a < s.index.toNat ∨ s.index.toNat + x.val + 1 ≤ a → t.mem.read a = s.mem.read a) ∧
    t.index.toNat = s.index.toNat + x.val + 1 ∧ OnlyMemIndex s t ∧ Advances s t) ∧
  ∀ (x : Reg) (s : State), 4096 < s.index.toNat + x.val + 1 →
    exec (.storeRegisters x) s = .fault .outOfBoundAddress

/-- FX65 loads V[0] to V[X] from I to I + X, leaves the registers above X and all memory alone, moves I past them, and
when I + X > 4095 stops with OutOfBoundAddress (43_index_memory.md LoadRegisters; the error kind is decision D16,
log 12). -/
def Obligations.LoadRegistersReadsBlock : Prop :=
  (∀ (x : Reg) (s : State), s.index.toNat + x.val + 1 ≤ 4096 → ∃ t, exec (.loadRegisters x) s = .next t ∧
    (∀ r : Reg, r ≤ x → t.readReg r = s.mem.read (s.index.toNat + r.val)) ∧
    (∀ r : Reg, x < r → t.readReg r = s.readReg r) ∧
    t.index.toNat = s.index.toNat + x.val + 1 ∧ SameTimers s t ∧ SameStack s t ∧ SameMem s t ∧ SameKeys s t ∧
    SameScreen s t ∧ SameDraws s t ∧ Advances s t) ∧
  ∀ (x : Reg) (s : State), 4096 < s.index.toNat + x.val + 1 →
    exec (.loadRegisters x) s = .fault .outOfBoundAddress

/-- An FX55, then I set back, then an FX65 with the same X restores V[0] to V[X], whatever the registers held in between
(43_index_memory.md LoadRegisters, corner cases). -/
def Obligations.LoadAfterStoreRestoresRegisters : Prop :=
  ∀ (x : Reg) (s t : State), exec (.storeRegisters x) s = .next t → ∀ (v : Vector Byte 16) (p : Word),
    ∃ u, exec (.loadRegisters x) { t with v := v, pc := p, index := s.index } = .next u ∧
      ∀ r : Reg, r ≤ x → u.readReg r = s.readReg r

/-- A store is seen by the next fetch: after an FX55 with X >= 1 whose block begins at the next instruction, that
instruction is the one V[0] and V[1] spell (20_memory.md section 4). -/
def Obligations.StoreIsSeenByTheNextFetch : Prop :=
  ∀ (x : Reg) (s t : State), 1 ≤ x → s.index = s.pc + 2#16 → exec (.storeRegisters x) s = .next t →
    fetch t = .ok (nibblesOf (s.readReg 0) (s.readReg 1))

/-- Memory in canonical form is determined by what its bytes read as: equal memories are equal data (the model's own
form, log 21; 20_memory.md section 1). -/
def Obligations.CanonicalMemoryIsUnique : Prop :=
  ∀ m m' : Memory, m.wf → m'.wf → (∀ a, m.read a = m'.read a) → m = m'

/-! ### Random, timers, keypad -/

/-- CXNN puts the byte this step draws, masked with NN, in V[X], uses that one byte up and changes nothing else but pc;
its meaning is the same for every byte that could be drawn (44_random_timer_keypad.md Random; decision D23, log 3;
`Config.drawByte` has no value that a proof could know). -/
def Obligations.RandomMasksTheDraw : Prop :=
  (∀ (x : Reg) (nn : Byte) (s : State), ∃ t, exec (.random x nn) s = .next t ∧
    (∀ k, (t.readReg x).getLsbD k = ((Config.drawByte s.draws).getLsbD k && nn.getLsbD k)) ∧
    t.draws = s.draws + 1 ∧ SameRegsBut x s t ∧ SameIndex s t ∧ SameTimers s t ∧ SameStack s t ∧ SameMem s t ∧
    SameKeys s t ∧ SameScreen s t ∧ Advances s t) ∧
  ∀ (r : Byte) (x : Reg) (nn : Byte) (s : State), ∃ t, effectRandomOf r x nn s = .ok (t, .advance) ∧
    (∀ k, (t.readReg x).getLsbD k = (r.getLsbD k && nn.getLsbD k)) ∧ SameRegsBut x s t

/-- Only CXNN depends on the draw: every other instruction does the same whichever draws are to come
(44_random_timer_keypad.md Random; decision D23, log 3). -/
def Obligations.OnlyRandomDependsOnTheDraw : Prop :=
  ∀ (i : Instr) (s : State) (k : Nat), (∀ x nn, i ≠ .random x nn) →
    exec i { s with draws := k } = mapNext (fun t => { t with draws := k }) (exec i s)

/-- FX07 copies DT to V[X]; FX15 and FX18 copy V[X] to DT and to ST (44_random_timer_keypad.md; decision D27, log 5). -/
def Obligations.TimerInstructionsMoveBytes : Prop :=
  (∀ (x : Reg) (s : State), ∃ t, exec (.loadDelayTimer x) s = .next t ∧
    t.readReg x = s.dt ∧ SameRegsBut x s t ∧ OnlyRegs s t ∧ Advances s t) ∧
  (∀ (x : Reg) (s : State), ∃ t, exec (.setDelayTimer x) s = .next t ∧
    t.dt = s.readReg x ∧ t.st = s.st ∧ OnlyTimers s t ∧ Advances s t) ∧
  ∀ (x : Reg) (s : State), ∃ t, exec (.setSoundTimer x) s = .next t ∧
    t.st = s.readReg x ∧ t.dt = s.dt ∧ OnlyTimers s t ∧ Advances s t

/-- EX9E skips exactly when the key named by V[X]'s low nibble is held, EXA1 exactly when it is not: one of the two skips
in every state; the edge set plays no part (44_random_timer_keypad.md; the low nibble is decision D13, log 9). -/
def Obligations.KeySkipsReadTheSteadyState : Prop :=
  ∀ (x : Reg) (s : State) (k : Key), k.val = (s.readReg x).toNat % 16 →
    (∃ t, exec (.skipIfKeyPressed x) s = .next t ∧ SkipsIff s.key[k] s t ∧ OnlyPc s t) ∧
    ∃ t, exec (.skipIfKeyNotPressed x) s = .next t ∧ SkipsIff (!s.key[k]) s t ∧ OnlyPc s t

/-- R36: the just-pressed key is the least one in the edge set, and there is none exactly when the edge set is empty. -/
def Obligations.JustPressedIsTheLeastEdge : Prop :=
  ∀ s : State,
    (∀ k : Key, justPressed s = some k ↔ s.jp[k] = true ∧ ∀ j : Key, j < k → s.jp[j] = false) ∧
    (justPressed s = none ↔ ∀ k : Key, s.jp[k] = false)

/-- FX0A puts the least just-pressed key in V[X] and advances, the edge set unchanged; with an empty edge set it changes
nothing, pc included, whatever keys are held (44_random_timer_keypad.md WaitForKey; decision D20, log 22). -/
def Obligations.WaitForKeyTakesTheLeastEdge : Prop :=
  (∀ (x : Reg) (s : State) (k : Key), s.jp[k] = true → (∀ j : Key, j < k → s.jp[j] = false) →
    ∃ t, exec (.waitForKey x) s = .next t ∧ (t.readReg x).toNat = k.val ∧
      SameRegsBut x s t ∧ OnlyRegs s t ∧ Advances s t) ∧
  ∀ (x : Reg) (s : State), (∀ k : Key, s.jp[k] = false) → exec (.waitForKey x) s = .next s

/-! ### Display -/

/-- 00E0 unsets every pixel and changes nothing else but pc; VF is not written (45_display.md ClearScreen; decision D29,
log 5). -/
def Obligations.ClearScreenUnsetsEveryPixel : Prop :=
  ∀ s : State, ∃ t, exec .clearScreen s = .next t ∧ (∀ y x, Screen.pixel t.fb y x = false) ∧
    SameRegs s t ∧ OnlyScreenRegs s t ∧ Advances s t

/-- DXYN toggles exactly the on-screen pixels under the set bits of the N bytes at I drawn at (V[X], V[Y]), clipped and
not wrapped, then sets VF to 1 exactly when one of them was set, and changes nothing else; when I + N > 4096 it stops
with OutOfBoundRange (45_display.md DrawSprite; start and bounds are decisions D14, D15, D16, logs 10 to 12). -/
def Obligations.DrawSpriteTogglesCoveredPixels : Prop :=
  (∀ (x y : Reg) (n : Fin 16) (s : State), s.index.toNat + n.val ≤ 4096 →
    ∃ t, exec (.drawSprite x y n) s = .next t ∧
      (∀ py px, Screen.pixel t.fb py px = (Screen.pixel s.fb py px ^^ spriteCovers
        (s.mem.readBytes s.index.toNat n.val) (s.readReg x).toNat (s.readReg y).toNat py px)) ∧
      (t.readReg vf = 0x01#8 ↔ ∃ py px, Screen.pixel s.fb py px = true ∧ spriteCovers
        (s.mem.readBytes s.index.toNat n.val) (s.readReg x).toNat (s.readReg y).toNat py px = true) ∧
      (t.readReg vf = 0x00#8 ∨ t.readReg vf = 0x01#8) ∧ SameRegsBut vf s t ∧ OnlyScreenRegs s t ∧ Advances s t) ∧
  ∀ (x y : Reg) (n : Fin 16) (s : State), 4096 < s.index.toNat + n.val →
    exec (.drawSprite x y n) s = .fault .outOfBoundRange

/-- Drawing the same sprite at the same position twice restores the screen; the first draw reports a collision exactly
when a covered pixel was set, the second exactly when one was unset (45_display.md, the XOR law as conflict C2 corrects
it). The first clause holds at every position; the second is two DXYN in a row, whose position does not move because X
and Y are not VF; the third is two DXYN in a row for every X and Y: where one of them is VF, the second sprite is drawn
at the position the first one's flag gives. In the second and third the start V[X], V[Y] is not reduced (decision D14,
log 10). -/
def Obligations.DrawingTwiceRestoresTheScreen : Prop :=
  (∀ (fb : Screen) (x0 y0 : Nat) (rows : List Byte),
    ((fb.draw x0 y0 rows).1.draw x0 y0 rows).1 = fb ∧
    ((fb.draw x0 y0 rows).2 = true ↔ ∃ y x, fb.pixel y x = true ∧ spriteCovers rows x0 y0 y x = true) ∧
    (((fb.draw x0 y0 rows).1.draw x0 y0 rows).2 = true ↔
      ∃ y x, fb.pixel y x = false ∧ spriteCovers rows x0 y0 y x = true)) ∧
  (∀ (x y : Reg) (n : Fin 16) (s t : State), x ≠ vf → y ≠ vf → exec (.drawSprite x y n) s = .next t →
    ∃ u, exec (.drawSprite x y n) t = .next u ∧ u.fb = s.fb ∧
      (u.readReg vf = 0x01#8 ↔ ∃ py px, Screen.pixel s.fb py px = false ∧ spriteCovers
        (s.mem.readBytes s.index.toNat n.val) (s.readReg x).toNat (s.readReg y).toNat py px = true)) ∧
  ∀ (x y : Reg) (n : Fin 16) (s t : State), exec (.drawSprite x y n) s = .next t →
    ∃ u, exec (.drawSprite x y n) t = .next u ∧ ∀ py px, Screen.pixel u.fb py px = (Screen.pixel s.fb py px ^^
      (spriteCovers (s.mem.readBytes s.index.toNat n.val) (s.readReg x).toNat (s.readReg y).toNat py px ^^
       spriteCovers (s.mem.readBytes s.index.toNat n.val) (t.readReg x).toNat (t.readReg y).toNat py px))

/-! ### The whole machine -/

/-- What each part of the state is written by, over all instructions: I by ANNN, FX1E, FX29, FX55, FX65 only, memory by
FX33 and FX55 only, the stack by Call and Return only, DT by FX15 and ST by FX18 only, the screen by 00E0 and DXYN only,
the keypad by none (10_state.md sections 2 to 7, 20_memory.md section 3; that FX0A leaves the edge set alone is decision
D20, log 22). -/
def Obligations.StateIsWrittenOnlyByItsInstructions : Prop :=
  ∀ (i : Instr) (s t : State), exec i s = .next t →
    (t.index ≠ s.index → (∃ nnn, i = .storeIndex nnn) ∨ (∃ x, i = .addToIndex x) ∨ (∃ x, i = .fontAddress x) ∨
      (∃ x, i = .storeRegisters x) ∨ ∃ x, i = .loadRegisters x) ∧
    (t.mem ≠ s.mem → (∃ x, i = .storeBCD x) ∨ ∃ x, i = .storeRegisters x) ∧
    (t.stack ≠ s.stack → (∃ nnn, i = .call nnn) ∨ i = .ret) ∧
    (t.dt ≠ s.dt → ∃ x, i = .setDelayTimer x) ∧
    (t.st ≠ s.st → ∃ x, i = .setSoundTimer x) ∧
    (t.fb ≠ s.fb → i = .clearScreen ∨ ∃ x y n, i = .drawSprite x y n) ∧
    SameKeys s t

/-- The machine after construction: the sixteen glyphs of the font at 0x000, glyph 0 first, every other byte zero, pc at
0x0200, every register, timer, key, edge and pixel zero and the stack empty (10_state.md section 9; decisions D3, D4, D5, logs 1 and 2). -/
def Obligations.ResetStateAsConstructed : Prop :=
  State.reset.pc = 0x0200#16 ∧ State.reset.index = 0x0000#16 ∧ State.reset.dt = 0x00#8 ∧ State.reset.st = 0x00#8 ∧
  State.reset.depth = 0 ∧ (∀ r, State.reset.readReg r = 0x00#8) ∧
  (∀ k : Key, State.reset.key[k] = false ∧ State.reset.jp[k] = false) ∧
  (∀ y x, Screen.pixel State.reset.fb y x = false) ∧
  State.reset.mem.readBytes 0x000 80 =
    ([0xF0#8, 0x90#8, 0x90#8, 0x90#8, 0xF0#8] ++ [0x20#8, 0x60#8, 0x20#8, 0x20#8, 0x70#8] ++
      [0xF0#8, 0x10#8, 0xF0#8, 0x80#8, 0xF0#8] ++ [0xF0#8, 0x10#8, 0xF0#8, 0x10#8, 0xF0#8] ++
      [0x90#8, 0x90#8, 0xF0#8, 0x10#8, 0x10#8] ++ [0xF0#8, 0x80#8, 0xF0#8, 0x10#8, 0xF0#8] ++
      [0xF0#8, 0x80#8, 0xF0#8, 0x90#8, 0xF0#8] ++ [0xF0#8, 0x10#8, 0x20#8, 0x40#8, 0x40#8] ++
      [0xF0#8, 0x90#8, 0xF0#8, 0x90#8, 0xF0#8] ++ [0xF0#8, 0x90#8, 0xF0#8, 0x10#8, 0xF0#8] ++
      [0xF0#8, 0x90#8, 0xF0#8, 0x90#8, 0x90#8] ++ [0xE0#8, 0x90#8, 0xE0#8, 0x90#8, 0xE0#8] ++
      [0xF0#8, 0x80#8, 0x80#8, 0x80#8, 0xF0#8] ++ [0xE0#8, 0x90#8, 0x90#8, 0x90#8, 0xE0#8] ++
      [0xF0#8, 0x80#8, 0xF0#8, 0x80#8, 0xF0#8] ++ [0xF0#8, 0x80#8, 0xF0#8, 0x80#8, 0x80#8]) ∧
  ∀ a, 0x050 ≤ a → State.reset.mem.read a = 0x00#8

/-- The invariant holds after construction (10_state.md sections 3, 5, 9; the memory form is log 21). -/
def Obligations.ResetMeetsTheInvariant : Prop := State.reset.Inv

/-- Every step keeps the invariant, from every state that has it: memory canonical, at most 12 return addresses, none
above 0x1000, pc at most 0x10FE (10_state.md sections 3 and 5; decision D24, log 13; the memory form is log 21). -/
def Obligations.StepKeepsTheInvariant : Prop :=
  ∀ s t : State, s.Inv → step s = .next t → t.Inv

/-- Every interleaving of ticks and driver operations, from every state that has the invariant, ends in one that has it
(00_scope.md section 4, 60_exceptions.md section 5, 10_state.md sections 3 and 5; decisions D18, D21, D24, logs 23, 17,
13). -/
def Obligations.EveryInterleavingKeepsTheInvariant : Prop :=
  ∀ (as : List Action) (s : State), s.Inv → (runActions as s).Inv

/-! ### The driver -/

/-- load_program copies the bytes to 0x200 on and touches nothing else, accepts exactly up to 3584 bytes, and fails with
ProgramTooLarge beyond (60_exceptions.md section 5; that it touches nothing else is decision D18, log 23). -/
def Obligations.LoadProgramCopiesBytes : Prop :=
  (∀ (bytes : List Byte) (s : State), bytes.length ≤ 3584 → ∃ m, loadProgram bytes s = .ok { s with mem := m } ∧
    (∀ i (h : i < bytes.length), m.read (0x200 + i) = bytes[i]) ∧
    ∀ a, a < 0x200 ∨ 0x200 + bytes.length ≤ a → m.read a = s.mem.read a) ∧
  ∀ (bytes : List Byte) (s : State), 3584 < bytes.length → loadProgram bytes s = .error .programTooLarge

/-- press sets the key's steady state and records an edge exactly on a released-to-pressed transition;
keypad reset clears the whole edge set and leaves the steady state. Neither touches another key or anything else. A
frame's reset comes after its ticks and its timer decrement; no step changes the edge set, FX0A among them (60_exceptions.md section 5;
70_reset_and_hazards.md section 3; that FX0A leaves the key it takes in the edge set is decision D20, log 22). -/
def Obligations.PressAddsEdgesKeypadResetClearsThem : Prop :=
  (∀ (k : Key) (s : State), (press k s).key[k] = true ∧ (press k s).jp[k] = (s.jp[k] || !s.key[k]) ∧
    (∀ j : Key, j ≠ k → (press k s).key[j] = s.key[j] ∧ (press k s).jp[j] = s.jp[j]) ∧
    { press k s with key := s.key, jp := s.jp } = s) ∧
  (∀ s : State, (∀ k : Key, (keypadReset s).jp[k] = false) ∧ { keypadReset s with jp := s.jp } = s) ∧
  (∀ (n : Nat) (s t : State), tickBatch n s = .ok t → frameOf n s = .ok (keypadReset (decrementTimers t))) ∧
  ∀ s t : State, step s = .next t → t.jp = s.jp

/-- release clears the key's steady state and leaves the edge set, so a key pressed and released is still just pressed
(60_exceptions.md section 5; decision D19, log 22). -/
def Obligations.ReleaseKeepsTheEdge : Prop :=
  (∀ (k : Key) (s : State), (release k s).key[k] = false ∧ (∀ j : Key, j ≠ k → (release k s).key[j] = s.key[j]) ∧
    { release k s with key := s.key } = s) ∧
  ∀ (k : Key) (s : State), s.key[k] = false → (release k (press k s)).jp[k] = true

/-- R277: the decrement takes one from each timer that is not zero, leaves one at zero there, and touches nothing else;
a frame does it once, whatever its ticks were. -/
def Obligations.DecrementTimersSaturates : Prop :=
  (∀ s : State, (decrementTimers s).dt.toNat = s.dt.toNat - 1 ∧ (decrementTimers s).st.toNat = s.st.toNat - 1 ∧
    { decrementTimers s with dt := s.dt, st := s.st } = s) ∧
  ∀ (n : Nat) (s t : State), tickBatch n s = .ok t →
    ∃ u, frameOf n s = .ok u ∧ u.dt.toNat = t.dt.toNat - 1 ∧ u.st.toNat = t.st.toNat - 1

/-- The frame procedure: an error stops it with the state as it is, Wait ends the batch early, a budget of zero runs no
tick, and a frame that ends has decremented the timers once and emptied the edge set (70_reset_and_hazards.md
section 3; the budget is decision D22, log 26). -/
def Obligations.FrameEndsBatchThenDecrements : Prop :=
  (∀ (n : Nat) (s : State) (f : Fault), tickResult s = .error f → frameOf (n + 1) s = .error (f, s)) ∧
  (∀ (n : Nat) (s : State), tickResult s = .ok .wait → frameOf (n + 1) s = .ok (keypadReset (decrementTimers s))) ∧
  (∀ s : State, frameOf 0 s = .ok (keypadReset (decrementTimers s))) ∧
  (∀ (n : Nat) (s : State) (d : Flow), tickResult s = .ok d → d ≠ .wait → frameOf (n + 1) s = frameOf n (afterTick s)) ∧
  ∀ (n : Nat) (s t : State), frameOf n s = .ok t → ∀ k : Key, t.jp[k] = false
end

