-- ==== Sys2Proof/Laws/Decode.lean ====
section
/-! SUPPORT. Laws/Decode.lean: the nibble, byte and field helpers of Decode.lean undo each other, and their values as
numbers. -/

namespace Sys2Proof

/-! ### Nibbles and bytes -/

@[simp] theorem highNibble_append (hi lo : Nibble) : highNibble (hi ++ lo) = hi := by
  revert hi lo; decide

@[simp] theorem lowNibble_append (hi lo : Nibble) : lowNibble (hi ++ lo) = lo := by
  revert hi lo; decide

@[simp] theorem append_highNibble_lowNibble (b : Byte) : (highNibble b ++ lowNibble b : BitVec (4 + 4)) = b := by
  revert b; decide

@[simp] theorem assembleByte_highNibble_lowNibble (b : Byte) : assembleByte (highNibble b) (lowNibble b) = b :=
  append_highNibble_lowNibble b

@[simp] theorem highNibble_assembleByte (hi lo : Nibble) : highNibble (assembleByte hi lo) = hi :=
  highNibble_append hi lo

@[simp] theorem lowNibble_assembleByte (hi lo : Nibble) : lowNibble (assembleByte hi lo) = lo :=
  lowNibble_append hi lo

theorem assembleByte_toNat (n2 n3 : Nibble) : (assembleByte n2 n3).toNat = 16 * n2.toNat + n3.toNat := by
  rw [assembleByte, BitVec.toNat_append, ← Nat.shiftLeft_add_eq_or_of_lt n3.isLt, Nat.shiftLeft_eq]
  omega

/-- The bytes of an instruction give back its nibbles (R67). -/
@[simp] theorem nibblesOf_append (q : Nibbles) : nibblesOf (q.n0 ++ q.n1) (q.n2 ++ q.n3) = q := by
  simp [nibblesOf]

/-! ### Addresses -/

theorem assembleAddr_toNat (n1 n2 n3 : Nibble) :
    (assembleAddr n1 n2 n3).toNat = 256 * n1.toNat + 16 * n2.toNat + n3.toNat := by
  rw [assembleAddr, BitVec.toNat_append, BitVec.toNat_append, ← Nat.shiftLeft_add_eq_or_of_lt n2.isLt,
    ← Nat.shiftLeft_add_eq_or_of_lt n3.isLt, Nat.shiftLeft_eq, Nat.shiftLeft_eq]
  omega

@[simp] theorem assembleAddr_extract (nnn : Addr12) :
    assembleAddr (nnn.extractLsb' 8 4) (nnn.extractLsb' 4 4) (nnn.extractLsb' 0 4) = nnn := by
  apply BitVec.eq_of_toNat_eq
  rw [assembleAddr_toNat]
  have := nnn.isLt
  simp only [BitVec.extractLsb'_toNat, Nat.shiftRight_eq_div_pow]
  omega

@[simp] theorem extract_assembleAddr_8 (a b c : Nibble) : (assembleAddr a b c).extractLsb' 8 4 = a := by
  apply BitVec.eq_of_toNat_eq
  have := a.isLt; have := b.isLt; have := c.isLt
  simp only [BitVec.extractLsb'_toNat, assembleAddr_toNat, Nat.shiftRight_eq_div_pow]
  omega

@[simp] theorem extract_assembleAddr_4 (a b c : Nibble) : (assembleAddr a b c).extractLsb' 4 4 = b := by
  apply BitVec.eq_of_toNat_eq
  have := a.isLt; have := b.isLt; have := c.isLt
  simp only [BitVec.extractLsb'_toNat, assembleAddr_toNat, Nat.shiftRight_eq_div_pow]
  omega

@[simp] theorem extract_assembleAddr_0 (a b c : Nibble) : (assembleAddr a b c).extractLsb' 0 4 = c := by
  apply BitVec.eq_of_toNat_eq
  have := a.isLt; have := b.isLt; have := c.isLt
  simp only [BitVec.extractLsb'_toNat, assembleAddr_toNat, Nat.shiftRight_eq_div_pow]
  omega

/-! ### Register indices -/

@[simp] theorem nibbleIndex_indexNibble (r : Fin 16) : nibbleIndex (indexNibble r) = r := by
  revert r; decide

@[simp] theorem indexNibble_nibbleIndex (n : Nibble) : indexNibble (nibbleIndex n) = n := by
  revert n; decide

/-! ### Words -/

/-- The nibbles of a word are those of its two bytes as memory stores them (R67). -/
theorem nibblesOfWord_eq (w : Word) : nibblesOfWord w = nibblesOf (w.extractLsb' 8 8) (w.extractLsb' 0 8) := by
  simp only [nibblesOfWord, nibblesOf, highNibble, lowNibble, Nibbles.mk.injEq]
  refine ⟨?_, ?_, ?_, ?_⟩ <;> apply BitVec.eq_of_toNat_eq <;>
    simp only [BitVec.extractLsb'_toNat, Nat.shiftRight_eq_div_pow] <;> omega

/-- NNN of a word is its bits 11:0 (R102, R103). -/
@[simp] theorem assembleAddr_of_word (w : Word) :
    assembleAddr (w.extractLsb' 8 4) (w.extractLsb' 4 4) (w.extractLsb' 0 4) = w.extractLsb' 0 12 := by
  apply BitVec.eq_of_toNat_eq
  rw [assembleAddr_toNat]
  simp only [BitVec.extractLsb'_toNat, Nat.shiftRight_eq_div_pow]
  omega

/-- NN of a word is its bits 7:0 (R102, R103). -/
@[simp] theorem assembleByte_of_word (w : Word) :
    assembleByte (w.extractLsb' 4 4) (w.extractLsb' 0 4) = w.extractLsb' 0 8 := by
  apply BitVec.eq_of_toNat_eq
  rw [assembleByte_toNat]
  simp only [BitVec.extractLsb'_toNat, Nat.shiftRight_eq_div_pow]
  omega

/-- Everything the decoder can answer on bytes: the instruction of the first two, and the rest untouched. -/
theorem decodeBytes_cons_cons (b0 b1 : Byte) (rest : List Byte) :
    decodeBytes (b0 :: b1 :: rest) = (decode (nibblesOf b0 b1)).map (fun i => (i, rest)) := by
  simp only [decodeBytes]
  cases decode (nibblesOf b0 b1) <;> rfl

/-- The host's view of a word is the decoder's. -/
theorem decodeTableWord_eq (nbits w : Nat) :
    decodeTableWord nbits w = (decodeWord (tableWord nbits w)).toOption := by
  simp only [decodeTableWord, wordBytes, decodeBytes_cons_cons, ← nibblesOfWord_eq, decodeWord]
  cases decode (nibblesOfWord (tableWord nbits w)) <;> rfl

end Sys2Proof
end

