-- ==== Sys2Proof/Laws/Memory.lean ====
section
/-! SUPPORT. Laws/Memory.lean: reads after writes, and that every memory operation keeps the canonical form. -/

namespace Sys2Proof.Machine

/-! ### One byte -/

theorem Memory.read_cons (c : Host.Cell) (m : Memory) (a : Nat) :
    Memory.read (c :: m) a = if c.1 = a then c.2 else Memory.read m a := rfl

theorem Memory.read_insertCell (a : Nat) (b : Byte) (m : Memory) (a' : Nat) :
    Memory.read (Memory.insertCell a b m) a' = if a' = a then b else Memory.read m a' := by
  induction m with
  | nil =>
    simp only [Memory.insertCell, Memory.read_cons]
    split_ifs <;> first | rfl | omega
  | cons c cs ih =>
    simp only [Memory.insertCell]
    split_ifs with h1 h2 <;> simp only [Memory.read_cons, ih] <;> split_ifs <;> first | rfl | omega

theorem Memory.read_eraseCell (a : Nat) (m : Memory) (a' : Nat) :
    Memory.read (Memory.eraseCell a m) a' = if a' = a then initialByte a else Memory.read m a' := by
  induction m with
  | nil => simp [Memory.eraseCell, Memory.read]; intro h; rw [h]
  | cons c cs ih =>
    simp only [Memory.eraseCell]
    split_ifs with h1 h2 <;> simp only [Memory.read_cons, ih] <;> split_ifs <;> first | rfl | omega

/-- A read after a write: the byte written at that address, the old byte anywhere else (R72). -/
theorem Memory.read_write (m : Memory) (a : Nat) (b : Byte) (a' : Nat) :
    (m.write a b).read a' = if a' = a then b else m.read a' := by
  by_cases h : b = initialByte a
  · simp [Memory.write, h, Memory.read_eraseCell]
  · simp [Memory.write, h, Memory.read_insertCell]

/-! ### The canonical form -/

theorem Memory.mem_insertCell {a : Nat} {b : Byte} {m : Memory} {c : Host.Cell}
    (h : c ∈ Memory.insertCell a b m) : c = (a, b) ∨ c ∈ m := by
  induction m with
  | nil => simp [Memory.insertCell] at h; exact .inl h
  | cons d ds ih =>
    simp only [Memory.insertCell] at h
    split at h
    · simpa using h
    · split at h
      · rcases List.mem_cons.1 h with h | h
        · exact .inl h
        · exact .inr (List.mem_cons_of_mem _ h)
      · rcases List.mem_cons.1 h with h | h
        · exact .inr (h ▸ List.mem_cons_self ..)
        · exact (ih h).imp_right (List.mem_cons_of_mem _)

theorem Memory.mem_eraseCell {a : Nat} {m : Memory} {c : Host.Cell} (h : c ∈ Memory.eraseCell a m) : c ∈ m := by
  induction m with
  | nil => exact h
  | cons d ds ih =>
    simp only [Memory.eraseCell] at h
    split at h
    · exact List.mem_cons_of_mem _ (ih h)
    · rcases List.mem_cons.1 h with h | h
      · exact h ▸ List.mem_cons_self ..
      · exact List.mem_cons_of_mem _ (ih h)

theorem Memory.pairwise_insertCell (a : Nat) (b : Byte) {m : Memory} (hm : m.Pairwise (fun p q => p.1 < q.1)) :
    (Memory.insertCell a b m).Pairwise (fun p q => p.1 < q.1) := by
  induction m with
  | nil => simp [Memory.insertCell]
  | cons c cs ih =>
    obtain ⟨hc, hcs⟩ := List.pairwise_cons.1 hm
    simp only [Memory.insertCell]
    split
    · rename_i h1
      refine List.pairwise_cons.2 ⟨fun d hd => ?_, hm⟩
      rcases List.mem_cons.1 hd with rfl | hd
      · exact h1
      · exact Nat.lt_trans h1 (hc d hd)
    · split
      · rename_i h2
        exact List.pairwise_cons.2 ⟨fun d hd => h2 ▸ hc d hd, hcs⟩
      · rename_i h1 h2
        refine List.pairwise_cons.2 ⟨fun d hd => ?_, ih hcs⟩
        rcases Memory.mem_insertCell hd with rfl | hd
        · change c.1 < a; omega
        · exact hc d hd

theorem Memory.pairwise_eraseCell (a : Nat) {m : Memory} (hm : m.Pairwise (fun p q => p.1 < q.1)) :
    (Memory.eraseCell a m).Pairwise (fun p q => p.1 < q.1) := by
  induction m with
  | nil => exact hm
  | cons c cs ih =>
    obtain ⟨hc, hcs⟩ := List.pairwise_cons.1 hm
    simp only [Memory.eraseCell]
    split
    · exact ih hcs
    · exact List.pairwise_cons.2 ⟨fun d hd => hc d (Memory.mem_eraseCell hd), ih hcs⟩

/-- A write to an address that exists keeps the canonical form. -/
theorem Memory.write_wf {m : Memory} (hm : m.wf) {a : Nat} (ha : a < Config.memSize) (b : Byte) : (m.write a b).wf := by
  by_cases h : b = initialByte a
  · simp only [Memory.write, h, if_true]
    exact ⟨Memory.pairwise_eraseCell a hm.1, fun c hc => hm.2 c (Memory.mem_eraseCell hc)⟩
  · simp only [Memory.write, h, if_false]
    refine ⟨Memory.pairwise_insertCell a b hm.1, fun c hc => ?_⟩
    rcases Memory.mem_insertCell hc with rfl | hc
    · exact ⟨ha, h⟩
    · exact hm.2 c hc

theorem Memory.reset_wf : State.reset.mem.wf := by decide

/-! ### Blocks of bytes -/

/-- A block written to addresses that exist keeps the canonical form. -/
theorem Memory.writeBytes_wf {m : Memory} (hm : m.wf) {a : Nat} {bs : List Byte}
    (h : a + bs.length ≤ Config.memSize) : (m.writeBytes a bs).wf := by
  induction bs generalizing m a with
  | nil => exact hm
  | cons b bs ih =>
    simp only [List.length_cons] at h
    exact ih (Memory.write_wf hm (by omega) b) (by omega)

/-- A read after a block write: the block's byte inside it, the old byte outside. -/
theorem Memory.read_writeBytes (m : Memory) (a : Nat) (bs : List Byte) (a' : Nat) :
    (m.writeBytes a bs).read a' = if a' < a then m.read a' else (bs[a' - a]?).getD (m.read a') := by
  induction bs generalizing m a with
  | nil => simp [Memory.writeBytes]
  | cons b bs ih =>
    rw [Memory.writeBytes, ih, Memory.read_write]
    rcases Nat.lt_trichotomy a' a with h1 | h1 | h1
    · have : a' ≠ a := by omega
      simp [h1, this, Nat.lt_succ_of_lt h1]
    · simp [h1]
    · have h2 : ¬ a' < a := by omega
      have h3 : ¬ a' < a + 1 := by omega
      have h4 : a' ≠ a := by omega
      have h5 : a' - a = (a' - (a + 1)) + 1 := by omega
      simp [h2, h3, h4, h5]

@[simp] theorem Memory.length_readBytes (m : Memory) (a n : Nat) : (m.readBytes a n).length = n := by
  simp [Memory.readBytes]

theorem Memory.getElem_readBytes (m : Memory) (a n i : Nat) (h : i < (m.readBytes a n).length) :
    (m.readBytes a n)[i] = m.read (a + i) := by
  simp [Memory.readBytes]

theorem inBounds_iff {a n : Nat} : inBounds a n = true ↔ a + n ≤ Config.memSize := by
  simp [inBounds]

/-- Everything MemRead can answer (R65). -/
theorem memRead_eq (kind : Fault) (m : Memory) (a n : Nat) :
    memRead kind m a n = if a + n ≤ Config.memSize then .ok (m.readBytes a n) else .error kind := by
  simp [memRead, inBounds_iff]

/-- Everything MemWrite can answer (R66). -/
theorem memWrite_eq (m : Memory) (a : Nat) (bs : List Byte) :
    memWrite m a bs = if a + bs.length ≤ Config.memSize then .ok (m.writeBytes a bs) else .error .outOfBoundAddress := by
  simp [memWrite, inBounds_iff]

/-- A successful MemWrite keeps the canonical form. -/
theorem memWrite_wf {m m' : Memory} (hm : m.wf) {a : Nat} {bs : List Byte} (h : memWrite m a bs = .ok m') : m'.wf := by
  rw [memWrite_eq] at h
  split at h
  · cases h; exact Memory.writeBytes_wf hm ‹_›
  · cases h

end Sys2Proof.Machine
end

