-- ==== Sys2Proof/Laws/State.lean ====
section
/-! SUPPORT. Laws/State.lean: what each named update of State does to each field, and what reset holds, true by
definition, so that no later proof unfolds an update. -/

namespace Sys2Proof.Machine

/-! ### Writing a register -/

@[simp] theorem State.writeReg_index (s : State) (r : Reg) (b : Byte) : (s.writeReg r b).index = s.index := rfl
@[simp] theorem State.writeReg_pc (s : State) (r : Reg) (b : Byte) : (s.writeReg r b).pc = s.pc := rfl
@[simp] theorem State.writeReg_dt (s : State) (r : Reg) (b : Byte) : (s.writeReg r b).dt = s.dt := rfl
@[simp] theorem State.writeReg_st (s : State) (r : Reg) (b : Byte) : (s.writeReg r b).st = s.st := rfl
@[simp] theorem State.writeReg_stack (s : State) (r : Reg) (b : Byte) : (s.writeReg r b).stack = s.stack := rfl
@[simp] theorem State.writeReg_mem (s : State) (r : Reg) (b : Byte) : (s.writeReg r b).mem = s.mem := rfl
@[simp] theorem State.writeReg_key (s : State) (r : Reg) (b : Byte) : (s.writeReg r b).key = s.key := rfl
@[simp] theorem State.writeReg_jp (s : State) (r : Reg) (b : Byte) : (s.writeReg r b).jp = s.jp := rfl
@[simp] theorem State.writeReg_fb (s : State) (r : Reg) (b : Byte) : (s.writeReg r b).fb = s.fb := rfl
@[simp] theorem State.writeReg_draws (s : State) (r : Reg) (b : Byte) : (s.writeReg r b).draws = s.draws := rfl

@[simp] theorem State.writeResultFlag_index (s : State) (x : Reg) (b c : Byte) : (s.writeResultFlag x b c).index = s.index := rfl
@[simp] theorem State.writeResultFlag_pc (s : State) (x : Reg) (b c : Byte) : (s.writeResultFlag x b c).pc = s.pc := rfl
@[simp] theorem State.writeResultFlag_dt (s : State) (x : Reg) (b c : Byte) : (s.writeResultFlag x b c).dt = s.dt := rfl
@[simp] theorem State.writeResultFlag_st (s : State) (x : Reg) (b c : Byte) : (s.writeResultFlag x b c).st = s.st := rfl
@[simp] theorem State.writeResultFlag_stack (s : State) (x : Reg) (b c : Byte) : (s.writeResultFlag x b c).stack = s.stack := rfl
@[simp] theorem State.writeResultFlag_mem (s : State) (x : Reg) (b c : Byte) : (s.writeResultFlag x b c).mem = s.mem := rfl
@[simp] theorem State.writeResultFlag_key (s : State) (x : Reg) (b c : Byte) : (s.writeResultFlag x b c).key = s.key := rfl
@[simp] theorem State.writeResultFlag_jp (s : State) (x : Reg) (b c : Byte) : (s.writeResultFlag x b c).jp = s.jp := rfl
@[simp] theorem State.writeResultFlag_fb (s : State) (x : Reg) (b c : Byte) : (s.writeResultFlag x b c).fb = s.fb := rfl
@[simp] theorem State.writeResultFlag_draws (s : State) (x : Reg) (b c : Byte) : (s.writeResultFlag x b c).draws = s.draws := rfl

@[simp] theorem State.readReg_writeReg_same (s : State) (r : Reg) (b : Byte) : (s.writeReg r b).readReg r = b := by
  simp [State.readReg, State.writeReg]

theorem State.readReg_writeReg (s : State) (r r' : Reg) (b : Byte) :
    (s.writeReg r b).readReg r' = if r' = r then b else s.readReg r' := by
  by_cases h : r' = r
  · subst h; simp
  · have h2 : r.val ≠ r'.val := fun e => h (Fin.ext e.symm)
    simp [State.readReg, State.writeReg, h, h2]

/-- The flag is written last, so VF holds it even when X is F (R21). -/
theorem State.readReg_writeResultFlag (s : State) (x r : Reg) (b c : Byte) :
    (s.writeResultFlag x b c).readReg r = if r = vf then c else if r = x then b else s.readReg r := by
  simp only [State.writeResultFlag, State.readReg_writeReg]

/-! ### Following a flow directive -/

@[simp] theorem State.follow_v (s : State) (d : Flow) : (s.follow d).v = s.v := by cases d <;> rfl
@[simp] theorem State.follow_index (s : State) (d : Flow) : (s.follow d).index = s.index := by cases d <;> rfl
@[simp] theorem State.follow_dt (s : State) (d : Flow) : (s.follow d).dt = s.dt := by cases d <;> rfl
@[simp] theorem State.follow_st (s : State) (d : Flow) : (s.follow d).st = s.st := by cases d <;> rfl
@[simp] theorem State.follow_stack (s : State) (d : Flow) : (s.follow d).stack = s.stack := by cases d <;> rfl
@[simp] theorem State.follow_mem (s : State) (d : Flow) : (s.follow d).mem = s.mem := by cases d <;> rfl
@[simp] theorem State.follow_key (s : State) (d : Flow) : (s.follow d).key = s.key := by cases d <;> rfl
@[simp] theorem State.follow_jp (s : State) (d : Flow) : (s.follow d).jp = s.jp := by cases d <;> rfl
@[simp] theorem State.follow_fb (s : State) (d : Flow) : (s.follow d).fb = s.fb := by cases d <;> rfl
@[simp] theorem State.follow_draws (s : State) (d : Flow) : (s.follow d).draws = s.draws := by cases d <;> rfl

@[simp] theorem State.follow_advance_pc (s : State) : (s.follow .advance).pc = s.pc + 2#16 := rfl
@[simp] theorem State.follow_goTo_pc (s : State) (a : Word) : (s.follow (.goTo a)).pc = a := rfl
@[simp] theorem State.follow_wait (s : State) : s.follow .wait = s := rfl
@[simp] theorem State.follow_skip_pc (s : State) : (s.follow .skip).pc = s.pc + 4#16 := by
  change s.pc + 2#16 + 2#16 = s.pc + 4#16
  rw [BitVec.add_assoc]; rfl

@[simp] theorem State.readReg_follow (s : State) (d : Flow) (r : Reg) : (s.follow d).readReg r = s.readReg r := by
  cases d <;> rfl

/-! ### The driver's updates -/

@[simp] theorem press_v (k : Key) (s : State) : (press k s).v = s.v := rfl
@[simp] theorem press_index (k : Key) (s : State) : (press k s).index = s.index := rfl
@[simp] theorem press_pc (k : Key) (s : State) : (press k s).pc = s.pc := rfl
@[simp] theorem press_dt (k : Key) (s : State) : (press k s).dt = s.dt := rfl
@[simp] theorem press_st (k : Key) (s : State) : (press k s).st = s.st := rfl
@[simp] theorem press_stack (k : Key) (s : State) : (press k s).stack = s.stack := rfl
@[simp] theorem press_mem (k : Key) (s : State) : (press k s).mem = s.mem := rfl
@[simp] theorem press_fb (k : Key) (s : State) : (press k s).fb = s.fb := rfl
@[simp] theorem press_draws (k : Key) (s : State) : (press k s).draws = s.draws := rfl

@[simp] theorem releaseWith_v (c : Bool) (k : Key) (s : State) : (releaseWith c k s).v = s.v := rfl
@[simp] theorem releaseWith_index (c : Bool) (k : Key) (s : State) : (releaseWith c k s).index = s.index := rfl
@[simp] theorem releaseWith_pc (c : Bool) (k : Key) (s : State) : (releaseWith c k s).pc = s.pc := rfl
@[simp] theorem releaseWith_dt (c : Bool) (k : Key) (s : State) : (releaseWith c k s).dt = s.dt := rfl
@[simp] theorem releaseWith_st (c : Bool) (k : Key) (s : State) : (releaseWith c k s).st = s.st := rfl
@[simp] theorem releaseWith_stack (c : Bool) (k : Key) (s : State) : (releaseWith c k s).stack = s.stack := rfl
@[simp] theorem releaseWith_mem (c : Bool) (k : Key) (s : State) : (releaseWith c k s).mem = s.mem := rfl
@[simp] theorem releaseWith_fb (c : Bool) (k : Key) (s : State) : (releaseWith c k s).fb = s.fb := rfl
@[simp] theorem releaseWith_draws (c : Bool) (k : Key) (s : State) : (releaseWith c k s).draws = s.draws := rfl

@[simp] theorem release_v (k : Key) (s : State) : (release k s).v = s.v := rfl
@[simp] theorem release_index (k : Key) (s : State) : (release k s).index = s.index := rfl
@[simp] theorem release_pc (k : Key) (s : State) : (release k s).pc = s.pc := rfl
@[simp] theorem release_dt (k : Key) (s : State) : (release k s).dt = s.dt := rfl
@[simp] theorem release_st (k : Key) (s : State) : (release k s).st = s.st := rfl
@[simp] theorem release_stack (k : Key) (s : State) : (release k s).stack = s.stack := rfl
@[simp] theorem release_mem (k : Key) (s : State) : (release k s).mem = s.mem := rfl
@[simp] theorem release_jp (k : Key) (s : State) : (release k s).jp = s.jp := rfl
@[simp] theorem release_fb (k : Key) (s : State) : (release k s).fb = s.fb := rfl
@[simp] theorem release_draws (k : Key) (s : State) : (release k s).draws = s.draws := rfl

@[simp] theorem keypadReset_v (s : State) : (keypadReset s).v = s.v := rfl
@[simp] theorem keypadReset_index (s : State) : (keypadReset s).index = s.index := rfl
@[simp] theorem keypadReset_pc (s : State) : (keypadReset s).pc = s.pc := rfl
@[simp] theorem keypadReset_dt (s : State) : (keypadReset s).dt = s.dt := rfl
@[simp] theorem keypadReset_st (s : State) : (keypadReset s).st = s.st := rfl
@[simp] theorem keypadReset_stack (s : State) : (keypadReset s).stack = s.stack := rfl
@[simp] theorem keypadReset_mem (s : State) : (keypadReset s).mem = s.mem := rfl
@[simp] theorem keypadReset_key (s : State) : (keypadReset s).key = s.key := rfl
@[simp] theorem keypadReset_fb (s : State) : (keypadReset s).fb = s.fb := rfl
@[simp] theorem keypadReset_draws (s : State) : (keypadReset s).draws = s.draws := rfl

@[simp] theorem decrementTimers_v (s : State) : (decrementTimers s).v = s.v := rfl
@[simp] theorem decrementTimers_index (s : State) : (decrementTimers s).index = s.index := rfl
@[simp] theorem decrementTimers_pc (s : State) : (decrementTimers s).pc = s.pc := rfl
@[simp] theorem decrementTimers_stack (s : State) : (decrementTimers s).stack = s.stack := rfl
@[simp] theorem decrementTimers_mem (s : State) : (decrementTimers s).mem = s.mem := rfl
@[simp] theorem decrementTimers_key (s : State) : (decrementTimers s).key = s.key := rfl
@[simp] theorem decrementTimers_jp (s : State) : (decrementTimers s).jp = s.jp := rfl
@[simp] theorem decrementTimers_fb (s : State) : (decrementTimers s).fb = s.fb := rfl
@[simp] theorem decrementTimers_draws (s : State) : (decrementTimers s).draws = s.draws := rfl

/-! ### The width of a stack entry -/

/-- So that a bound on a return address is arithmetic on 16 bits, whatever type it was read at. -/
@[simp] theorem stackEntryWidth_eq : Config.stackEntryWidth = 16 := rfl

/-! ### Reset -/

@[simp] theorem State.reset_pc : State.reset.pc = 0x0200#16 := rfl
@[simp] theorem State.reset_index : State.reset.index = 0x0000#16 := rfl
@[simp] theorem State.reset_dt : State.reset.dt = 0x00#8 := rfl
@[simp] theorem State.reset_st : State.reset.st = 0x00#8 := rfl
@[simp] theorem State.reset_stack : State.reset.stack = [] := rfl
@[simp] theorem State.reset_mem : State.reset.mem = [] := rfl
@[simp] theorem State.reset_fb : State.reset.fb = Screen.blank := rfl

theorem State.reset_readReg (r : Reg) : State.reset.readReg r = 0x00#8 := by
  simp [State.readReg, State.reset]

end Sys2Proof.Machine
end

