-- ==== Sys2Proof/Laws/Ops.lean ====
section
/-! SUPPORT. Laws/Ops.lean: for each shared operation, once, everything it can answer; and that exec is each
instruction's effect followed by the pc update. -/

namespace Sys2Proof.Machine

/-! ### Fetch -/

/-- Everything the fetch can answer (R67). -/
theorem fetch_eq (s : State) :
    fetch s = if s.pc.toNat + 2 ≤ Config.memSize then
      .ok (nibblesOf (s.mem.read s.pc.toNat) (s.mem.read (s.pc.toNat + 1)))
    else .error .outOfBoundAddress := by
  simp [fetch, inBounds_iff]

/-- A fetched instruction comes from a pc where both bytes exist. -/
theorem fetchInstr_ok {s : State} {i : Instr} (h : fetchInstr s = .ok i) :
    s.pc.toNat + 2 ≤ Config.memSize ∧
      decode (nibblesOf (s.mem.read s.pc.toNat) (s.mem.read (s.pc.toNat + 1))) = .ok i := by
  rw [fetchInstr, fetch_eq] at h
  by_cases hb : s.pc.toNat + 2 ≤ Config.memSize
  · simp only [hb, if_true] at h
    refine ⟨hb, ?_⟩
    cases hd : decode (nibblesOf (s.mem.read s.pc.toNat) (s.mem.read (s.pc.toNat + 1))) <;> simp_all
  · simp [hb] at h

/-- A fetch that fails gives one of the first two error kinds of R265. -/
theorem fetchInstr_error {s : State} {f : Fault} (h : fetchInstr s = .error f) :
    f = .outOfBoundAddress ∧ Config.memSize < s.pc.toNat + 2 ∨
      f = .unknownInstruction ∧ s.pc.toNat + 2 ≤ Config.memSize := by
  rw [fetchInstr, fetch_eq] at h
  by_cases hb : s.pc.toNat + 2 ≤ Config.memSize
  · simp only [hb, if_true] at h
    cases hd : decode (nibblesOf (s.mem.read s.pc.toNat) (s.mem.read (s.pc.toNat + 1))) <;> simp_all
  · simp only [hb, if_false] at h
    cases h
    exact .inl ⟨rfl, by omega⟩

/-! ### The stack -/

/-- Everything Push can answer (R32). -/
theorem push_ok {a : Config.StackEntry} {s t : State} (h : push a s = .ok t) :
    s.stack.length < Config.stackCapacity ∧ t = { s with stack := a :: s.stack } := by
  unfold push at h
  split at h
  · cases h; exact ⟨‹_›, rfl⟩
  · cases h

theorem push_of_lt {a : Config.StackEntry} {s : State} (h : s.depth < Config.stackCapacity) :
    push a s = .ok { s with stack := a :: s.stack } := if_pos h

theorem push_of_le {a : Config.StackEntry} {s : State} (h : Config.stackCapacity ≤ s.depth) : push a s = .error .stackOverflow :=
  if_neg (Nat.not_lt.2 h)

/-- Everything Pop can answer (R33). -/
theorem pop_ok {a : Config.StackEntry} {s t : State} (h : pop s = .ok (a, t)) :
    ∃ rest, s.stack = a :: rest ∧ t = { s with stack := rest } := by
  unfold pop at h
  split at h
  · cases h
  · cases h; exact ⟨_, ‹_›, rfl⟩

/-! ### Ending an instruction -/

@[simp] theorem finish_done (s : State) (f : Flow) : finish (done s f) = .next (s.follow f) := rfl
@[simp] theorem finish_ok (s : State) (f : Flow) : finish (.ok (s, f)) = .next (s.follow f) := rfl
@[simp] theorem finish_raise (f : Fault) : finish (raise f) = .fault f := rfl
@[simp] theorem finish_error (f : Fault) : finish (.error f) = .fault f := rfl

/-- The end of a tick is never a refusal, and a next state comes only from an effect without error. -/
theorem finish_next {e : Effect} {t : State} (h : finish e = .next t) :
    ∃ u f, e = .ok (u, f) ∧ t = u.follow f := by
  unfold finish at h
  split at h
  · cases h; exact ⟨_, _, rfl, rfl⟩
  · cases h

/-- Every instruction is its effect, then the pc update of its flow directive (R27). -/
theorem exec_eq_finish (i : Instr) (s : State) : exec i s = finish (execute i s) := by
  cases i <;> rfl

/-- Everything a step can answer with a next state: an instruction was fetched, it ran without error, and its flow
directive moved pc. -/
theorem step_next {s t : State} (h : step s = .next t) :
    ∃ i u f, fetchInstr s = .ok i ∧ execute i s = .ok (u, f) ∧ t = u.follow f := by
  unfold step at h
  split at h
  · obtain ⟨u, f, he, ht⟩ := finish_next ((exec_eq_finish _ _).symm.trans h)
    exact ⟨_, u, f, ‹_›, he, ht⟩
  · cases h

end Sys2Proof.Machine
end

