-- ==== Sys2Proof/Laws/Frame.lean ====
section
/-! SUPPORT. Laws/Frame.lean: what the shared updates leave unchanged, once, in the terms of Safety.lean. -/

namespace Sys2Proof.Machine

/-! ### Which fields an update names -/

theorem onlyRegs_update (s : State) (v : Vector Byte 16) (p : Word) : OnlyRegs s { s with v := v, pc := p } :=
  ⟨rfl, ⟨rfl, rfl⟩, rfl, fun _ => rfl, ⟨rfl, rfl⟩, fun _ _ => rfl, rfl⟩

theorem onlyPc_update (s : State) (p : Word) : OnlyPc s { s with pc := p } :=
  ⟨fun _ => rfl, onlyRegs_update s s.v p⟩

theorem onlyStack_update (s : State) (l : List Config.StackEntry) (p : Word) : OnlyStack s { s with stack := l, pc := p } :=
  ⟨fun _ => rfl, rfl, ⟨rfl, rfl⟩, fun _ => rfl, ⟨rfl, rfl⟩, fun _ _ => rfl, rfl⟩

theorem onlyIndex_update (s : State) (i p : Word) : OnlyIndex s { s with index := i, pc := p } :=
  ⟨fun _ => rfl, ⟨rfl, rfl⟩, rfl, fun _ => rfl, ⟨rfl, rfl⟩, fun _ _ => rfl, rfl⟩

theorem onlyTimers_update (s : State) (d e : Byte) (p : Word) : OnlyTimers s { s with dt := d, st := e, pc := p } :=
  ⟨fun _ => rfl, rfl, rfl, fun _ => rfl, ⟨rfl, rfl⟩, fun _ _ => rfl, rfl⟩

theorem onlyMemIndex_update (s : State) (m : Memory) (i p : Word) :
    OnlyMemIndex s { s with mem := m, index := i, pc := p } :=
  ⟨fun _ => rfl, ⟨rfl, rfl⟩, rfl, ⟨rfl, rfl⟩, fun _ _ => rfl, rfl⟩

theorem onlyScreenRegs_update (s : State) (fb : Screen) (v : Vector Byte 16) (p : Word) :
    OnlyScreenRegs s { s with fb := fb, v := v, pc := p } :=
  ⟨rfl, ⟨rfl, rfl⟩, rfl, fun _ => rfl, ⟨rfl, rfl⟩, rfl⟩

/-! ### Registers -/

/-- A register write that ends an instruction leaves every other register alone. -/
theorem sameRegsBut_writeReg (s : State) (x : Reg) (b : Byte) (d : Flow) :
    SameRegsBut x s ((s.writeReg x b).follow d) := by
  intro r hr
  simp [State.readReg_writeReg, hr]

/-- A result and a flag leave every register but those two alone. -/
theorem sameRegsButFlag_writeResultFlag (s : State) (x : Reg) (b c : Byte) (d : Flow) :
    SameRegsButFlag x s ((s.writeResultFlag x b c).follow d) := by
  intro r hr hv
  simp [State.readReg_writeResultFlag, hr, hv]

/-! ### pc -/

/-- What a skip does to the state: pc moves, by four when the condition holds and by two otherwise (R26, R160). -/
theorem State.follow_skipIf (s : State) (c : Bool) :
    s.follow (skipIf c) = { s with pc := if c then s.pc + 4#16 else s.pc + 2#16 } := by
  cases c
  · rfl
  · change { s with pc := s.pc + 2#16 + 2#16 } = _
    simp only [if_true, BitVec.add_assoc]; rfl

/-- Before its flow directive is followed, an instruction has left pc and the keypad alone (R25, R34, R35). -/
theorem execute_keeps {i : Instr} {s u : State} {f : Flow} (h : execute i s = .ok (u, f)) :
    u.pc = s.pc ∧ u.key = s.key ∧ u.jp = s.jp := by
  cases i <;> simp only [execute] at h
  case ret =>
    simp only [effectReturn] at h
    split at h
    · obtain ⟨rest, h1, rfl⟩ := pop_ok ‹_›
      cases h; exact ⟨rfl, rfl, rfl⟩
    · cases h
  case call =>
    simp only [effectCall] at h
    split at h
    · obtain ⟨h1, rfl⟩ := push_ok ‹_›
      cases h; exact ⟨rfl, rfl, rfl⟩
    · cases h
  case storeBCD => simp only [effectStoreBCD] at h; split at h <;> cases h; exact ⟨rfl, rfl, rfl⟩
  case storeRegisters => simp only [effectStoreRegisters] at h; split at h <;> cases h; exact ⟨rfl, rfl, rfl⟩
  case loadRegisters => simp only [effectLoadRegisters] at h; split at h <;> cases h; exact ⟨rfl, rfl, rfl⟩
  case drawSprite => simp only [effectDrawSprite] at h; split at h <;> cases h; exact ⟨rfl, rfl, rfl⟩
  case waitForKey => simp only [effectWaitForKey] at h; split at h <;> cases h <;> exact ⟨rfl, rfl, rfl⟩
  case executeMachineCode => cases h
  all_goals (cases h; exact ⟨rfl, rfl, rfl⟩)

end Sys2Proof.Machine
end

