-- ==== Sys2Proof/Laws/Operands.lean ====
section
/-! SUPPORT. Laws/Operands.lean: what the operand forms and the flags give, as numbers, and the block loads and
stores. -/

namespace Sys2Proof.Machine

/-! ### Addresses -/

theorem addressOf_toNat (nnn : Addr12) : (addressOf nnn).toNat = nnn.toNat := by
  have := nnn.isLt
  simp [addressOf]; omega

theorem promote_toNat (b : Byte) : (promote b).toNat = b.toNat := by
  have := b.isLt
  simp [promote]; omega

theorem indexPast_toNat (s : State) (x : Reg) :
    (indexPast s x).toNat = (s.index.toNat + (x.val + 1)) % 65536 := by
  simp [indexPast, BitVec.toNat_add]

/-! ### Flags -/

theorem carryFlag_eq (a b : Byte) : carryFlag a b = if 255 < a.toNat + b.toNat then 0x01#8 else 0x00#8 := by
  simp [carryFlag, flagByte]

theorem lowBitFlag_eq (b : Byte) : lowBitFlag b = 0x00#8 ∨ lowBitFlag b = 0x01#8 := by
  revert b; decide

theorem highBitFlag_eq (b : Byte) : highBitFlag b = 0x00#8 ∨ highBitFlag b = 0x80#8 := by
  revert b; decide

theorem collisionFlag_eq (h : Bool) : collisionFlag h = 0x00#8 ∨ collisionFlag h = 0x01#8 := by
  cases h <;> decide

/-! ### Blocks of registers -/

@[simp] theorem length_regsUpTo (s : State) (x : Reg) : (regsUpTo s x).length = x.val + 1 := by
  have := x.isLt
  simp [regsUpTo]

theorem getElem?_regsUpTo (s : State) (x r : Reg) (h : r ≤ x) : (regsUpTo s x)[r.val]? = some (s.readReg r) := by
  have : r.val < x.val + 1 := Nat.lt_succ_of_le h
  simp [regsUpTo, State.readReg, this]

@[simp] theorem length_bcdDigits (b : Byte) : (bcdDigits b).length = 3 := rfl

/-- The block load: register `r` takes the byte `r - i` of the list, the others keep theirs (R206). -/
theorem getElem_loadRegsFrom (v : Vector Byte 16) (i : Nat) (bs : List Byte) (r : Reg) :
    (loadRegsFrom v i bs)[r] = if r.val < i then v[r] else (bs[r.val - i]?).getD v[r] := by
  induction bs generalizing v i with
  | nil => simp [loadRegsFrom]
  | cons b bs ih =>
    rw [loadRegsFrom, ih]
    rcases Nat.lt_trichotomy r.val i with h | h | h
    · have h1 : r.val < i + 1 := by omega
      have h2 : i ≠ r.val := by omega
      simp [h, h1, h2]
    · simp [h]
    · have h1 : ¬ r.val < i + 1 := by omega
      have h2 : ¬ r.val < i := by omega
      have h3 : i ≠ r.val := by omega
      have h4 : r.val - i = (r.val - (i + 1)) + 1 := by omega
      simp [h1, h2, h4, h3]

/-! ### The keypad -/

/-- The low nibble of V[X] names the key (R228). -/
theorem keyHeld_eq (s : State) (b : Byte) :
    keyHeld Config.keyIndexMode s b = s.key[(⟨b.toNat % 16, Nat.mod_lt _ (by decide)⟩ : Key)] := by
  have h : nibbleIndex (lowNibble b) = ⟨b.toNat % 16, Nat.mod_lt _ (by decide)⟩ := by
    revert b; decide
  simp [keyHeld, Config.keyIndexMode, keyNamed, h]

/-- A key answered by the edge set is in it (R36). -/
theorem justPressed_some {s : State} {k : Key} (h : justPressed s = some k) : s.jp[k] = true := by
  unfold justPressed at h
  simpa using List.find?_some h

/-- No answer: the edge set is empty (R36). -/
theorem justPressed_none {s : State} : justPressed s = none ↔ ∀ k : Key, s.jp[k] = false := by
  simp [justPressed, List.find?_eq_none]

end Sys2Proof.Machine
end

