-- ==== Sys2Proof/Laws/PerInstr.lean ====
section
/-! SUPPORT. Laws/PerInstr.lean: the family TwoBytes: every instruction is exactly two bytes and four nibbles, whatever
its operands (30_encoding.md R100). -/

namespace Sys2Proof.Laws.TwoBytes

/-- The encoding has two bytes, and they are the instruction's nibbles in source order. -/
def Statement (i : Instr) : Prop :=
  ∃ b0 b1, encode i = [b0, b1] ∧ nibblesOf b0 b1 = encodeNibbles i

theorem of_any (i : Instr) : Statement i := ⟨_, _, rfl, nibblesOf_append _⟩

theorem clearScreen : Statement (.clearScreen) := of_any _
theorem ret : Statement (.ret) := of_any _
theorem executeMachineCode (nnn : Addr12) : Statement (.executeMachineCode nnn) := of_any _
theorem jump (nnn : Addr12) : Statement (.jump nnn) := of_any _
theorem call (nnn : Addr12) : Statement (.call nnn) := of_any _
theorem skipIfEqualValue (x : Reg) (nn : Byte) : Statement (.skipIfEqualValue x nn) := of_any _
theorem skipIfNotEqualValue (x : Reg) (nn : Byte) : Statement (.skipIfNotEqualValue x nn) := of_any _
theorem skipIfEqualRegister (x y : Reg) : Statement (.skipIfEqualRegister x y) := of_any _
theorem storeValue (x : Reg) (nn : Byte) : Statement (.storeValue x nn) := of_any _
theorem addValue (x : Reg) (nn : Byte) : Statement (.addValue x nn) := of_any _
theorem storeRegister (x y : Reg) : Statement (.storeRegister x y) := of_any _
theorem orRegister (x y : Reg) : Statement (.orRegister x y) := of_any _
theorem andRegister (x y : Reg) : Statement (.andRegister x y) := of_any _
theorem xorRegister (x y : Reg) : Statement (.xorRegister x y) := of_any _
theorem addRegister (x y : Reg) : Statement (.addRegister x y) := of_any _
theorem subRegister (x y : Reg) : Statement (.subRegister x y) := of_any _
theorem shiftRight (x y : Reg) : Statement (.shiftRight x y) := of_any _
theorem subRegisterReversed (x y : Reg) : Statement (.subRegisterReversed x y) := of_any _
theorem shiftLeft (x y : Reg) : Statement (.shiftLeft x y) := of_any _
theorem skipIfNotEqualRegister (x y : Reg) : Statement (.skipIfNotEqualRegister x y) := of_any _
theorem storeIndex (nnn : Addr12) : Statement (.storeIndex nnn) := of_any _
theorem jumpWithOffset (nnn : Addr12) : Statement (.jumpWithOffset nnn) := of_any _
theorem random (x : Reg) (nn : Byte) : Statement (.random x nn) := of_any _
theorem drawSprite (x y : Reg) (n : Fin 16) : Statement (.drawSprite x y n) := of_any _
theorem skipIfKeyPressed (x : Reg) : Statement (.skipIfKeyPressed x) := of_any _
theorem skipIfKeyNotPressed (x : Reg) : Statement (.skipIfKeyNotPressed x) := of_any _
theorem loadDelayTimer (x : Reg) : Statement (.loadDelayTimer x) := of_any _
theorem waitForKey (x : Reg) : Statement (.waitForKey x) := of_any _
theorem setDelayTimer (x : Reg) : Statement (.setDelayTimer x) := of_any _
theorem setSoundTimer (x : Reg) : Statement (.setSoundTimer x) := of_any _
theorem addToIndex (x : Reg) : Statement (.addToIndex x) := of_any _
theorem fontAddress (x : Reg) : Statement (.fontAddress x) := of_any _
theorem storeBCD (x : Reg) : Statement (.storeBCD x) := of_any _
theorem storeRegisters (x : Reg) : Statement (.storeRegisters x) := of_any _
theorem loadRegisters (x : Reg) : Statement (.loadRegisters x) := of_any _

end Sys2Proof.Laws.TwoBytes
end

