-- ==== Sys2Proof/Laws/Screen.lean ====
section
/-! SUPPORT. Laws/Screen.lean: what one toggled pixel does to the screen. -/

namespace Sys2Proof.Machine

@[simp] theorem Screen.pixel_blank (y : Fin 32) (x : Fin 64) : Screen.blank.pixel y x = false := by
  simp [Screen.pixel, Screen.blank]

/-- Toggling an on-screen pixel flips it and no other; off the screen nothing changes (R242). -/
theorem Screen.pixel_toggle (fb : Screen) (px py : Nat) (y : Fin 32) (x : Fin 64) :
    (fb.toggle px py).1.pixel y x =
      if px = x.val ∧ py = y.val then !fb.pixel y x else fb.pixel y x := by
  unfold Screen.toggle
  split
  · rename_i h
    simp only [Screen.pixel, Fin.getElem_fin, Vector.getElem_set]
    by_cases h1 : py = y.val
    · subst h1
      by_cases h2 : px = x.val
      · subst h2; simp
      · simp [h2]
    · simp [h1]
  · rename_i h
    have : ¬ (px = x.val ∧ py = y.val) := fun ⟨h1, h2⟩ => h ⟨h1 ▸ x.isLt, h2 ▸ y.isLt⟩
    simp [this]

/-- A toggle reports exactly an on-screen pixel that was set. -/
theorem Screen.toggle_hit (fb : Screen) (px py : Nat) :
    (fb.toggle px py).2 = true ↔ ∃ (y : Fin 32) (x : Fin 64), py = y.val ∧ px = x.val ∧ fb.pixel y x = true := by
  unfold Screen.toggle
  split
  · rename_i h
    constructor
    · intro hp; exact ⟨⟨py, h.2⟩, ⟨px, h.1⟩, rfl, rfl, hp⟩
    · rintro ⟨y, x, rfl, rfl, hp⟩; exact hp
  · rename_i h
    simp only [Bool.false_eq_true, false_iff]
    rintro ⟨y, x, rfl, rfl, -⟩
    exact h ⟨x.isLt, y.isLt⟩

end Sys2Proof.Machine
end

