-- ==== Sys2Proof/Tests/Slice0.lean ====
section
/-! SUPPORT. Tests/Slice0.lean: the ill-formed terms WellFormed refuses; one word of every instruction, written out from
its pattern in 30_encoding.md R107; single steps, their results from spec/95_test_vectors.md (the vector's id stands
before each); and for every obligation with hypotheses a state and operands that meet them. -/

namespace Sys2Proof.Tests

open Sys2Proof.Machine

/-! ### A small state, and one step of it -/

/-- Reset with some V registers set. -/
def regs (l : List (Reg × Byte)) : State := l.foldl (fun s p => s.writeReg p.1 p.2) State.reset

/-- Reset with some V registers and I set. -/
def regsAt (l : List (Reg × Byte)) (i : Word) : State := { regs l with index := i }

/-- Reset with `n` entries 0x0300 on the stack. -/
def stackOf (n : Nat) : State := { State.reset with stack := List.replicate n 0x0300#16 }

/-- One step with the word `w` at pc. -/
def run (w : Nat) (s : State) : Host.Outcome State Fault Refusal := step (s.withFetchWord 16 w)

/-- A next state, and `p` holds of it. -/
def goes (p : State → Bool) : Host.Outcome State Fault Refusal → Bool
  | .next t => p t
  | _ => false

/-- A fault of this kind. -/
def stops (f : Fault) : Host.Outcome State Fault Refusal → Bool
  | .fault g => g == f
  | _ => false

/-- V[r] and pc are these. -/
def regPc (r : Reg) (b : Byte) (p : Word) (t : State) : Bool := t.readReg r == b && t.pc == p

/-- These pixels, as (x, y), are set. -/
def lit (t : State) (l : List (Fin 64 × Fin 32)) : Bool := l.all fun p => Screen.pixel t.fb p.2 p.1

/-- These pixels, as (x, y), are unset. -/
def dark (t : State) (l : List (Fin 64 × Fin 32)) : Bool := l.all fun p => !Screen.pixel t.fb p.2 p.1

/-! ### WellFormed -/

theorem test_wf_refuses_machine_code_00E0 : (Instr.executeMachineCode 0x0E0#12).wf = false := by decide
theorem test_wf_refuses_machine_code_00EE : (Instr.executeMachineCode 0x0EE#12).wf = false := by decide
theorem test_wf_accepts_neighbours :
    (Instr.executeMachineCode 0x0E1#12).wf = true ∧ (Instr.executeMachineCode 0x000#12).wf = true ∧
    (Instr.jump 0x0E0#12).wf = true := by decide

/-! ### A word of every instruction (R107) -/

/-- 00000000 11100000 -/
theorem test_decode_clearScreen : decodeBytes [0x00#8, 0xE0#8] = .ok (.clearScreen, []) := rfl
/-- 00000000 11101110 -/
theorem test_decode_ret : decodeBytes [0x00#8, 0xEE#8] = .ok (.ret, []) := rfl
/-- 00000000 11101111 -/
theorem test_decode_executeMachineCode : decodeBytes [0x00#8, 0xEF#8] = .ok (.executeMachineCode 0x0EF#12, []) := rfl
/-- 00010010 00001010 -/
theorem test_decode_jump : decodeBytes [0x12#8, 0x0A#8] = .ok (.jump 0x20A#12, []) := rfl
/-- 00101010 10111100 -/
theorem test_decode_call : decodeBytes [0x2A#8, 0xBC#8] = .ok (.call 0xABC#12, []) := rfl
/-- 00111010 01111111 -/
theorem test_decode_skipIfEqualValue : decodeBytes [0x3A#8, 0x7F#8] = .ok (.skipIfEqualValue 0xA 0x7F#8, []) := rfl
/-- 01000010 00010000 -/
theorem test_decode_skipIfNotEqualValue : decodeBytes [0x42#8, 0x10#8] = .ok (.skipIfNotEqualValue 2 0x10#8, []) := rfl
/-- 01010001 00100000 -/
theorem test_decode_skipIfEqualRegister : decodeBytes [0x51#8, 0x20#8] = .ok (.skipIfEqualRegister 1 2, []) := rfl
/-- 01100001 00000101 -/
theorem test_decode_storeValue : decodeBytes [0x61#8, 0x05#8] = .ok (.storeValue 1 0x05#8, []) := rfl
/-- 01110001 00000011 -/
theorem test_decode_addValue : decodeBytes [0x71#8, 0x03#8] = .ok (.addValue 1 0x03#8, []) := rfl
/-- 10000001 00100000 -/
theorem test_decode_storeRegister : decodeBytes [0x81#8, 0x20#8] = .ok (.storeRegister 1 2, []) := rfl
/-- 10001010 10110001 -/
theorem test_decode_orRegister : decodeBytes [0x8A#8, 0xB1#8] = .ok (.orRegister 0xA 0xB, []) := rfl
/-- 10001100 00110010 -/
theorem test_decode_andRegister : decodeBytes [0x8C#8, 0x32#8] = .ok (.andRegister 0xC 3, []) := rfl
/-- 10000001 00100011 -/
theorem test_decode_xorRegister : decodeBytes [0x81#8, 0x23#8] = .ok (.xorRegister 1 2, []) := rfl
/-- 10001111 00010100 -/
theorem test_decode_addRegister : decodeBytes [0x8F#8, 0x14#8] = .ok (.addRegister 0xF 1, []) := rfl
/-- 10000001 11110101 -/
theorem test_decode_subRegister : decodeBytes [0x81#8, 0xF5#8] = .ok (.subRegister 1 0xF, []) := rfl
/-- 10000001 00100110 -/
theorem test_decode_shiftRight : decodeBytes [0x81#8, 0x26#8] = .ok (.shiftRight 1 2, []) := rfl
/-- 10000001 00100111 -/
theorem test_decode_subRegisterReversed : decodeBytes [0x81#8, 0x27#8] = .ok (.subRegisterReversed 1 2, []) := rfl
/-- 10000001 00101110 -/
theorem test_decode_shiftLeft : decodeBytes [0x81#8, 0x2E#8] = .ok (.shiftLeft 1 2, []) := rfl
/-- 10010011 01000000 -/
theorem test_decode_skipIfNotEqualRegister : decodeBytes [0x93#8, 0x40#8] = .ok (.skipIfNotEqualRegister 3 4, []) := rfl
/-- 10101111 11111111 -/
theorem test_decode_storeIndex : decodeBytes [0xAF#8, 0xFF#8] = .ok (.storeIndex 0xFFF#12, []) := rfl
/-- 10111010 10111100 -/
theorem test_decode_jumpWithOffset : decodeBytes [0xBA#8, 0xBC#8] = .ok (.jumpWithOffset 0xABC#12, []) := rfl
/-- 11000001 00001111 -/
theorem test_decode_random : decodeBytes [0xC1#8, 0x0F#8] = .ok (.random 1 0x0F#8, []) := rfl
/-- 11011010 10111100 -/
theorem test_decode_drawSprite : decodeBytes [0xDA#8, 0xBC#8] = .ok (.drawSprite 0xA 0xB 0xC, []) := rfl
/-- 11100001 10011110 -/
theorem test_decode_skipIfKeyPressed : decodeBytes [0xE1#8, 0x9E#8] = .ok (.skipIfKeyPressed 1, []) := rfl
/-- 11100001 10100001 -/
theorem test_decode_skipIfKeyNotPressed : decodeBytes [0xE1#8, 0xA1#8] = .ok (.skipIfKeyNotPressed 1, []) := rfl
/-- 11110100 00000111 -/
theorem test_decode_loadDelayTimer : decodeBytes [0xF4#8, 0x07#8] = .ok (.loadDelayTimer 4, []) := rfl
/-- 11110011 00001010 -/
theorem test_decode_waitForKey : decodeBytes [0xF3#8, 0x0A#8] = .ok (.waitForKey 3, []) := rfl
/-- 11110011 00010101 -/
theorem test_decode_setDelayTimer : decodeBytes [0xF3#8, 0x15#8] = .ok (.setDelayTimer 3, []) := rfl
/-- 11110011 00011000 -/
theorem test_decode_setSoundTimer : decodeBytes [0xF3#8, 0x18#8] = .ok (.setSoundTimer 3, []) := rfl
/-- 11110010 00011110 -/
theorem test_decode_addToIndex : decodeBytes [0xF2#8, 0x1E#8] = .ok (.addToIndex 2, []) := rfl
/-- 11110000 00101001 -/
theorem test_decode_fontAddress : decodeBytes [0xF0#8, 0x29#8] = .ok (.fontAddress 0, []) := rfl
/-- 11110001 00110011 -/
theorem test_decode_storeBCD : decodeBytes [0xF1#8, 0x33#8] = .ok (.storeBCD 1, []) := rfl
/-- 11110010 01010101 -/
theorem test_decode_storeRegisters : decodeBytes [0xF2#8, 0x55#8] = .ok (.storeRegisters 2, []) := rfl
/-- 11111110 01100101 -/
theorem test_decode_loadRegisters : decodeBytes [0xFE#8, 0x65#8] = .ok (.loadRegisters 0xE, []) := rfl

/-- E5, E7, E9, E11, E13, E14, E20. -/
theorem test_decode_unknown :
    decodeBytes [0x51#8, 0x21#8] = .error .unknownInstruction ∧
    decodeBytes [0x81#8, 0x28#8] = .error .unknownInstruction ∧
    decodeBytes [0x91#8, 0x21#8] = .error .unknownInstruction ∧
    decodeBytes [0xE1#8, 0x9F#8] = .error .unknownInstruction ∧
    decodeBytes [0xF1#8, 0xFF#8] = .error .unknownInstruction ∧
    decodeBytes [0xF1#8, 0x30#8] = .error .unknownInstruction ∧
    decodeBytes [0xFF#8, 0xFF#8] = .error .unknownInstruction := ⟨rfl, rfl, rfl, rfl, rfl, rfl, rfl⟩

/-- The host's numbering: bit 0 is the least significant bit of the big-endian word. -/
theorem test_decodeTableWord :
    decodeTableWord 16 0xDABC = some (.drawSprite 0xA 0xB 0xC) ∧ decodeTableWord 16 0x812F = none := by decide

/-- One byte is not an instruction. -/
theorem test_decode_truncated : decodeBytes [0x61#8] = .error .truncated := rfl

/-- The encoder writes the word's two bytes in memory order. -/
theorem test_encode : encode (.drawSprite 0xA 0xB 0xC) = [0xDA#8, 0xBC#8] ∧ encode (.call 0xABC#12) = [0x2A#8, 0xBC#8] := by
  decide

/-! ### Single steps: control flow -/

/-- F2 -/
theorem test_executeMachineCode : stops .unimplementedInstruction (run 0x00E1 State.reset) = true := by decide
/-- F4 -/
theorem test_return_empty : stops .stackUnderflow (run 0x00EE State.reset) = true := by decide
/-- F6 -/
theorem test_return : goes (fun t => t.pc == 0x0456#16 && t.stack == [0x0300#16])
    (run 0x00EE { State.reset with stack := [0x0456#16, 0x0300#16] }) = true := by decide
/-- F10 -/
theorem test_jump : goes (fun t => t.pc == 0x0201#16) (run 0x1201 State.reset) = true := by decide
/-- F12 -/
theorem test_call : goes (fun t => t.pc == 0x0210#16 && t.depth == 12 && t.stackEntry 11 == some 0x0202#16)
    (run 0x2210 (stackOf 11)) = true := by decide
/-- F13 -/
theorem test_call_full : stops .stackOverflow (run 0x2210 (stackOf 12)) = true := by decide
/-- F15 -/
theorem test_jumpWithOffset : goes (fun t => t.pc == 0x0300#16) (run 0xB300 (regs [(3, 0x55#8)])) = true := by decide
/-- F16 -/
theorem test_jumpWithOffset_no_wrap : goes (fun t => t.pc == 0x10FE#16) (run 0xBFFF (regs [(0, 0xFF#8)])) = true := by
  decide
/-- M1 -/
theorem test_fetch_last : goes (regPc 1 0x07#8 0x1000#16) (run 0x6107 { State.reset with pc := 0x0FFE#16 }) = true := by
  decide
/-- M2 -/
theorem test_fetch_past_end : stops .outOfBoundAddress (step { State.reset with pc := 0x0FFF#16 }) = true := by decide
/-- M5 -/
theorem test_fetch_font : stops .unknownInstruction (step { State.reset with pc := 0x0000#16 }) = true := by decide

/-! ### Single steps: skips -/

/-- K1 -/
theorem test_skipIfEqualValue : goes (fun t => t.pc == 0x0204#16) (run 0x3100 State.reset) = true := by decide
/-- K2 -/
theorem test_skipIfEqualValue_not : goes (fun t => t.pc == 0x0202#16) (run 0x3100 (regs [(1, 0x01#8)])) = true := by decide
/-- K5 -/
theorem test_skipIfNotEqualValue : goes (fun t => t.pc == 0x0204#16) (run 0x4210 (regs [(2, 0x11#8)])) = true := by decide
/-- K4 -/
theorem test_skipIfNotEqualValue_not : goes (fun t => t.pc == 0x0202#16) (run 0x4210 (regs [(2, 0x10#8)])) = true := by
  decide
/-- K6 -/
theorem test_skipIfEqualRegister :
    goes (fun t => t.pc == 0x0204#16) (run 0x5340 (regs [(3, 0x7F#8), (4, 0x7F#8)])) = true := by decide
/-- K7 -/
theorem test_skipIfEqualRegister_not :
    goes (fun t => t.pc == 0x0202#16) (run 0x5340 (regs [(3, 0x7F#8), (4, 0x7E#8)])) = true := by decide
/-- K9 -/
theorem test_skipIfNotEqualRegister :
    goes (fun t => t.pc == 0x0204#16) (run 0x9340 (regs [(3, 0x01#8), (4, 0x02#8)])) = true := by decide
/-- K10 -/
theorem test_skipIfNotEqualRegister_not :
    goes (fun t => t.pc == 0x0202#16) (run 0x9340 (regs [(3, 0x01#8), (4, 0x01#8)])) = true := by decide

/-! ### Single steps: registers and arithmetic -/

/-- A2 -/
theorem test_storeValue : goes (regPc vf 0xFF#8 0x0202#16) (run 0x6FFF State.reset) = true := by decide
/-- A5 -/
theorem test_addValue : goes (fun t => regPc 1 0x00#8 0x0202#16 t && t.readReg vf == 0x55#8)
    (run 0x7101 (regs [(1, 0xFF#8), (vf, 0x55#8)])) = true := by decide
/-- A7 -/
theorem test_storeRegister : goes (regPc 1 0xAB#8 0x0202#16) (run 0x8120 (regs [(2, 0xAB#8)])) = true := by decide
/-- A8 -/
theorem test_orRegister : goes (fun t => regPc 1 0xFF#8 0x0202#16 t && t.readReg vf == 0x55#8)
    (run 0x8121 (regs [(1, 0xF0#8), (2, 0x0F#8), (vf, 0x55#8)])) = true := by decide
/-- A9 -/
theorem test_andRegister : goes (regPc 1 0x33#8 0x0202#16) (run 0x8122 (regs [(1, 0xF3#8), (2, 0x3F#8)])) = true := by
  decide
/-- A10 -/
theorem test_xorRegister : goes (regPc 1 0xF0#8 0x0202#16) (run 0x8123 (regs [(1, 0xFF#8), (2, 0x0F#8)])) = true := by
  decide
/-- A15 -/
theorem test_addRegister_to_vf : goes (fun t => regPc vf 0x01#8 0x0202#16 t && t.readReg 1 == 0x20#8)
    (run 0x8F14 (regs [(vf, 0xF0#8), (1, 0x20#8)])) = true := by decide
/-- A16 -/
theorem test_addRegister_from_vf : goes (fun t => t.readReg 1 == 0x00#8 && t.readReg vf == 0x01#8)
    (run 0x81F4 (regs [(1, 0x01#8), (vf, 0xFF#8)])) = true := by decide
/-- A18 -/
theorem test_subRegister : goes (fun t => t.readReg 1 == 0xFE#8 && t.readReg vf == 0x00#8)
    (run 0x8125 (regs [(1, 0x05#8), (2, 0x07#8)])) = true := by decide
/-- A19 -/
theorem test_subRegister_equal : goes (fun t => t.readReg 1 == 0x00#8 && t.readReg vf == 0x01#8)
    (run 0x8125 (regs [(1, 0x07#8), (2, 0x07#8)])) = true := by decide
/-- A22 -/
theorem test_shiftRight : goes (fun t => t.readReg 1 == 0x02#8 && t.readReg 2 == 0x05#8 && t.readReg vf == 0x01#8)
    (run 0x8126 (regs [(1, 0xFF#8), (2, 0x05#8)])) = true := by decide
/-- A25 -/
theorem test_shiftRight_to_vf : goes (fun t => t.readReg vf == 0x00#8) (run 0x8F26 (regs [(2, 0x02#8)])) = true := by decide
/-- A27 -/
theorem test_subRegisterReversed : goes (fun t => t.readReg 1 == 0x02#8 && t.readReg vf == 0x01#8)
    (run 0x8127 (regs [(1, 0x05#8), (2, 0x07#8)])) = true := by decide
/-- A28 -/
theorem test_subRegisterReversed_borrow : goes (fun t => t.readReg 1 == 0xFE#8 && t.readReg vf == 0x00#8)
    (run 0x8127 (regs [(1, 0x07#8), (2, 0x05#8)])) = true := by decide
/-- A30 -/
theorem test_shiftLeft : goes (fun t => t.readReg 1 == 0x02#8 && t.readReg vf == 0x80#8)
    (run 0x812E (regs [(1, 0xFF#8), (2, 0x81#8)])) = true := by decide
/-- A33 -/
theorem test_shiftLeft_to_vf : goes (fun t => t.readReg vf == 0x00#8) (run 0x8F2E (regs [(2, 0x40#8)])) = true := by decide

/-! ### Single steps: index and memory -/

/-- X2 -/
theorem test_storeIndex : goes (fun t => t.index == 0x0FFF#16) (run 0xAFFF State.reset) = true := by decide
/-- X4 -/
theorem test_addToIndex : goes (fun t => t.index == 0x1000#16 && t.readReg vf == 0x00#8)
    (run 0xF21E (regsAt [(2, 0x01#8)] 0x0FFF#16)) = true := by decide
/-- X5 -/
theorem test_addToIndex_wraps :
    goes (fun t => t.index == 0x0000#16) (run 0xF21E (regsAt [(2, 0x01#8)] 0xFFFF#16)) = true := by decide
/-- X7 -/
theorem test_fontAddress : goes (fun t => t.index == 0x004B#16) (run 0xF029 (regs [(0, 0x0F#8)])) = true := by decide
/-- X8 -/
theorem test_fontAddress_low_nibble :
    goes (fun t => t.index == 0x0032#16) (run 0xF029 (regs [(0, 0x1A#8)])) = true := by decide
/-- X15 -/
theorem test_storeBCD : goes (fun t => t.mem.readBytes 0x0FFD 3 == [0x02#8, 0x05#8, 0x05#8] && t.index == 0x0FFD#16)
    (run 0xF133 (regsAt [(1, 0xFF#8)] 0x0FFD#16)) = true := by decide
/-- X16 -/
theorem test_storeBCD_past_end :
    stops .outOfBoundAddress (run 0xF133 (regsAt [(1, 0xFF#8)] 0x0FFE#16)) = true := by decide
/-- X17 -/
theorem test_storeRegisters :
    goes (fun t => t.mem.readBytes 0x0FFD 3 == [0x01#8, 0x02#8, 0x03#8] && t.index == 0x1000#16)
      (run 0xF255 (regsAt [(0, 0x01#8), (1, 0x02#8), (2, 0x03#8)] 0x0FFD#16)) = true := by decide
/-- X18 -/
theorem test_storeRegisters_past_end :
    stops .outOfBoundAddress (run 0xF255 (regsAt [(0, 0x01#8)] 0x0FFE#16)) = true := by decide
/-- X24 -/
theorem test_loadRegisters :
    goes (fun t => t.readReg 0 == 0xF0#8 && t.readReg 3 == 0x90#8 && t.readReg 4 == 0xF0#8 && t.readReg 5 == 0x99#8 &&
      t.index == 0x0005#16) (run 0xF465 (regs [(5, 0x99#8)])) = true := by decide
/-- X22 -/
theorem test_loadRegisters_past_end : stops .outOfBoundAddress (run 0xFF65 (regsAt [] 0x0FF1#16)) = true := by decide

/-! ### Single steps: random, timers, keypad -/

/-- R1, R4: the meaning for a given draw. -/
theorem test_random :
    goes (regPc 1 0x07#8 0x0202#16) (finish (effectRandomOf 0xB7#8 1 0x0F#8 State.reset)) = true ∧
    goes (regPc vf 0xA0#8 0x0202#16) (finish (effectRandomOf 0xAB#8 vf 0xF0#8 State.reset)) = true := by decide
/-- R2: whatever the draw. -/
theorem test_random_masked_to_zero : ∃ t, exec (.random 1 0x00#8) (regs [(1, 0x55#8)]) = .next t ∧ t.readReg 1 = 0x00#8 :=
  ⟨_, rfl, by simp [State.readReg, State.writeReg]⟩
/-- T1 -/
theorem test_loadDelayTimer : goes (regPc 1 0x2A#8 0x0202#16) (run 0xF107 { State.reset with dt := 0x2A#8 }) = true := by
  decide
/-- T2 -/
theorem test_setDelayTimer : goes (fun t => t.dt == 0x3C#8 && t.st == 0x00#8) (run 0xF115 (regs [(1, 0x3C#8)])) = true := by
  decide
/-- T3 -/
theorem test_setSoundTimer : goes (fun t => t.st == 0x05#8 && t.dt == 0x00#8 && soundActive t)
    (run 0xF118 (regs [(1, 0x05#8)])) = true := by decide
/-- Y5 -/
theorem test_skipIfKeyPressed :
    goes (fun t => t.pc == 0x0204#16) (run 0xE19E (press 0xA (regs [(1, 0x1A#8)]))) = true := by decide
/-- Y6 -/
theorem test_skipIfKeyPressed_released :
    goes (fun t => t.pc == 0x0202#16) (run 0xE19E (release 0xA (press 0xA (regs [(1, 0x0A#8)])))) = true := by decide
/-- Y3 -/
theorem test_skipIfKeyNotPressed :
    goes (fun t => t.pc == 0x0202#16) (run 0xE1A1 (press 0xA (regs [(1, 0x0A#8)]))) = true := by decide
/-- Y4 -/
theorem test_skipIfKeyNotPressed_released :
    goes (fun t => t.pc == 0x0204#16) (run 0xE1A1 (regs [(1, 0x0A#8)])) = true := by decide
/-- Y9 -/
theorem test_waitForKey : goes (fun t => regPc 3 0x03#8 0x0202#16 t && t.jp[3] && t.jp[9])
    (run 0xF30A (press 3 (press 9 State.reset))) = true := by decide
/-- Y7 -/
theorem test_waitForKey_held_only :
    goes (fun t => regPc 3 0x00#8 0x0200#16 t && t.key[5]) (run 0xF30A (keypadReset (press 5 State.reset))) = true := by
  decide

/-! ### Single steps: display -/

/-- D1 -/
theorem test_clearScreen : goes (fun t => dark t [(5, 3), (0, 0), (63, 31)] && t.readReg vf == 0x01#8)
    (run 0x00E0 { regs [(vf, 0x01#8)] with fb := (Screen.blank.toggle 5 3).1 }) = true := by decide
/-- D6 -/
theorem test_drawSprite_clipped :
    goes (fun t => lit t [(62, 30), (63, 30), (62, 31)] && dark t [(63, 31), (61, 30), (0, 30), (62, 0), (62, 29)] &&
      t.readReg vf == 0x00#8)
      (run 0xD015 (regs [(0, 0x3E#8), (1, 0x1E#8)])) = true := by decide
/-- D16 -/
theorem test_drawSprite_collision : goes (fun t => dark t [(60, 0), (63, 0), (0, 0), (60, 1)] && t.readReg vf == 0x01#8)
    (run 0xD011 { regs [(0, 0x3C#8)] with
      index := 0x0300#16, mem := [(0x300, 0xFF#8)], fb := (Screen.blank.draw 60 0 [0xF0#8]).1 }) = true := by decide

/-! ### The driver -/

/-- H4 -/
theorem test_loadProgram :
    (loadProgram [0x61#8, 0x05#8, 0x71#8] State.reset).toOption.map (fun t => (t.mem.readBytes 0x200 4, t.pc)) =
      some ([0x61#8, 0x05#8, 0x71#8, 0x00#8], 0x0200#16) := by decide
/-- H7 -/
theorem test_press_held : (press 3 (keypadReset (press 3 State.reset))).jp[3] = false := by decide
/-- H10, H11 -/
theorem test_decrementTimers :
    (decrementTimers { State.reset with dt := 0x02#8 }).dt = 0x01#8 ∧
    (decrementTimers { State.reset with dt := 0x02#8 }).st = 0x00#8 ∧
    soundActive (decrementTimers { State.reset with st := 0x01#8 }) = false := by decide
/-- P7, frame 1: the batch stops at Wait. -/
theorem test_frame_wait :
    (frameOf 4 (State.reset.withFetchWord 16 0xF30A)).toOption.map (fun t => t.pc) = some 0x0200#16 := by decide
/-- R322: the first tick with no program loaded. -/
theorem test_reset_step : stops .unimplementedInstruction (step State.reset) = true := by decide
/-- The word is placed where the next step fetches, at any pc. -/
theorem test_withFetchWord_past_end :
    goes (regPc 1 0x05#8 0x0202#16) (run 0x6105 { State.reset with pc := 0x0FFF#16 }) = true := by decide

/-! ### Every hypothesis of an obligation can be met -/

/-- DecodeOfEncodeIsIdentity: on either side of the two words that are not 0NNN. -/
theorem witness_wf : (Instr.executeMachineCode 0x0DF#12).wf = true ∧ (Instr.executeMachineCode 0x0EF#12).wf = true ∧
    (Instr.loadRegisters 0xF).wf = true := by decide

/-- EncodeOfDecodeIsIdentity. -/
theorem witness_decodes : decodeBytes [0x0F#8, 0xFF#8, 0x12#8] = .ok (.executeMachineCode 0xFFF#12, [0x12#8]) := rfl

/-- UnknownWordsAreExactlyTheListed: a word of each kind. -/
theorem witness_unknown :
    decode ⟨0x5, 0x1, 0x2, 0x1⟩ = .error .unknownInstruction ∧ decode ⟨0x8, 0x1, 0x2, 0xF⟩ = .error .unknownInstruction ∧
    decode ⟨0x9, 0x1, 0x2, 0xF⟩ = .error .unknownInstruction ∧ decode ⟨0xE, 0x1, 0x9, 0xF⟩ = .error .unknownInstruction ∧
    decode ⟨0xF, 0x1, 0x3, 0x0⟩ = .error .unknownInstruction := ⟨rfl, rfl, rfl, rfl, rfl⟩

/-- OpcodeMapRowsDecode: a word of each row, its free bits set where the mask allows. -/
theorem witness_rows :
    (0x00E0#16 &&& 0xFFFF#16 = 0x00E0#16) ∧ (0x00EE#16 &&& 0xFFFF#16 = 0x00EE#16) ∧
    (0x00E1#16 &&& 0xF000#16 = 0x0000#16 ∧ 0x00E1#16 ≠ 0x00E0#16 ∧ 0x00E1#16 ≠ 0x00EE#16) ∧
    (∀ n ∈ [0x1#4, 0x2#4, 0x3#4, 0x4#4, 0x6#4, 0x7#4, 0xA#4, 0xB#4, 0xC#4, 0xD#4],
      (n ++ 0xFFF#12) &&& 0xF000#16 = n ++ 0x000#12) ∧
    (0x5FF0#16 &&& 0xF00F#16 = 0x5000#16) ∧ (0x9FF0#16 &&& 0xF00F#16 = 0x9000#16) ∧
    (∀ n ∈ [0x0#4, 0x1#4, 0x2#4, 0x3#4, 0x4#4, 0x5#4, 0x6#4, 0x7#4, 0xE#4],
      (0x8FF#12 ++ n) &&& 0xF00F#16 = 0x800#12 ++ n) ∧
    (∀ b ∈ [0x9E#8, 0xA1#8], (0xEF#8 ++ b) &&& 0xF0FF#16 = 0xE0#8 ++ b) ∧
    (∀ b ∈ [0x07#8, 0x0A#8, 0x15#8, 0x18#8, 0x1E#8, 0x29#8, 0x33#8, 0x55#8, 0x65#8],
      (0xFF#8 ++ b) &&& 0xF0FF#16 = 0xF0#8 ++ b) := by decide

/-- StepRunsTheDecodedInstruction, at the last pc that fetches. -/
theorem witness_step_runs :
    (let s := { State.reset with pc := 0x0FFE#16, mem := [(0xFFE, 0x61#8), (0xFFF, 0x07#8)] }
     (Instr.storeValue 1 0x07#8).wf = true ∧ s.pc.toNat + 1 ≤ 4095 ∧
     decodeBytes [s.mem.read s.pc.toNat, s.mem.read (s.pc.toNat + 1)] = .ok (.storeValue 1 0x07#8, [])) :=
  ⟨rfl, by decide, rfl⟩

/-- StepIsTheTickWithoutItsDirective, and the step clause of PressAddsEdgesKeypadResetClearsThem: a next state and an
error. -/
theorem witness_step_tick :
    (∃ t, step (State.reset.withFetchWord 16 0x6105) = .next t) ∧ step State.reset = .fault .unimplementedInstruction :=
  ⟨⟨_, rfl⟩, rfl⟩

/-- FlowDirectiveMovesPc: each of the four directives, Advance and Skip at the last pc. -/
theorem witness_flow :
    (∃ t, tick ({ State.reset with pc := 0x0FFE#16 }.withFetchWord 16 0x6105) = .ok (t, .advance)) ∧
    (∃ t, tick ({ State.reset with pc := 0x0FFE#16 }.withFetchWord 16 0x3100) = .ok (t, .skip)) ∧
    (∃ t, tick (State.reset.withFetchWord 16 0x1FFF) = .ok (t, .goTo 0x0FFF#16)) ∧
    ∃ t, tick (State.reset.withFetchWord 16 0xF30A) = .ok (t, .wait) :=
  ⟨⟨_, rfl⟩, ⟨_, rfl⟩, ⟨_, rfl⟩, ⟨_, rfl⟩⟩

/-- WaitTickChangesNothing: a key is held, with no edge. -/
theorem witness_wait : ∃ t, tick ((keypadReset (press 5 State.reset)).withFetchWord 16 0xF30A) = .ok (t, .wait) :=
  ⟨_, rfl⟩

/-- FailedTickLeavesNoTrace: a store of which a part would have fitted. -/
theorem witness_failed_tick :
    tickResult ((regsAt [(0, 0x01#8)] 0x0FFE#16).withFetchWord 16 0xF255) = .error .outOfBoundAddress := rfl

/-- StepStopsExactlyOnTheListedErrors: every kind a step can raise, at the first state that raises it. -/
theorem witness_stops :
    stops .stackOverflow (run 0x2210 (stackOf 12)) = true ∧ stops .stackUnderflow (run 0x00EE State.reset) = true ∧
    stops .outOfBoundAddress (step { State.reset with pc := 0x0FFF#16 }) = true ∧
    stops .outOfBoundAddress (run 0xF133 (regsAt [] 0x0FFE#16)) = true ∧
    stops .outOfBoundAddress (run 0xFF55 (regsAt [] 0x0FF1#16)) = true ∧
    stops .outOfBoundAddress (run 0xFF65 (regsAt [] 0x0FF1#16)) = true ∧
    stops .outOfBoundRange (run 0xD000 (regsAt [] 0x1001#16)) = true ∧
    stops .unimplementedInstruction (run 0x0FFF State.reset) = true ∧
    stops .unknownInstruction (run 0xFFFF State.reset) = true := by decide

/-- StepStopsExactlyOnTheListedErrors, last clause: the last states that do not stop. -/
theorem witness_completes :
    goes (fun _ => true) (run 0x2210 (stackOf 11)) = true ∧ goes (fun _ => true) (run 0x00EE (stackOf 1)) = true ∧
    goes (fun _ => true) (run 0xF133 (regsAt [] 0x0FFD#16)) = true ∧
    goes (fun _ => true) (run 0xFF55 (regsAt [] 0x0FF0#16)) = true ∧
    goes (fun _ => true) (run 0xFF65 (regsAt [] 0x0FF0#16)) = true ∧
    goes (fun _ => true) (run 0xD000 (regsAt [] 0x1000#16)) = true := by decide

/-- ReturnGoesToThePoppedAddress: one entry, and none. -/
theorem witness_return : (stackOf 1).stack = 0x0300#16 :: [] ∧ (stackOf 0).stack = [] := by decide

/-- CallPushesTheReturnAddress, ReturnAfterCallComesBack: room for one entry, and for none. -/
theorem witness_call : (stackOf 11).depth < 12 ∧ 12 ≤ (stackOf 12).depth := by decide

/-- StackIsLastInFirstOut: twelve entries that just fit, a full stack, an empty one; a stack changed is in
`witness_written`. -/
theorem witness_stack :
    State.reset.depth + (List.replicate 12 0x0202#16).length ≤ 12 ∧ (stackOf 12).depth = 12 ∧ (stackOf 0).depth = 0 := by
  decide

/-- AddRegister, SubRegister, ShiftRight, SubReversed, ShiftLeft: X is not VF. -/
theorem witness_not_vf : (14 : Reg) ≠ vf := by decide

/-- RegistersChangeOnlyAsNamed: a register that is no destination; the flag of a shift left, set and clear. -/
theorem witness_registers :
    (∃ t, exec (.shiftLeft 1 2) (regs [(2, 0x81#8)]) = .next t ∧ t.readReg vf = 0x80#8) ∧
    (∃ t, exec (.shiftLeft 1 2) (regs [(2, 0x41#8)]) = .next t ∧ t.readReg vf = 0x00#8) ∧
    writesReg 14 (.shiftLeft 1 2) = false ∧ setsFlag (.shiftLeft 1 2) = true ∧ (14 : Reg) ≠ vf ∧
    writesReg vf (.addValue 1 0x01#8) = false ∧ setsFlag (.addValue 1 0x01#8) = false :=
  ⟨⟨_, rfl, by decide⟩, ⟨_, rfl, by decide⟩, by decide⟩

/-- StoreBcdWritesThreeDigits: the last I that fits, and the first that does not. -/
theorem witness_bcd : (regsAt [] 0x0FFD#16).index.toNat + 3 ≤ 4096 ∧ 4096 < (regsAt [] 0x0FFE#16).index.toNat + 3 := by
  decide

/-- StoreRegistersWritesBlock, LoadRegistersReadsBlock: the last I that fits, the first that does not; a register in the
block, and one above it. -/
theorem witness_block :
    (regsAt [] 0x0FF1#16).index.toNat + (14 : Reg).val + 1 ≤ 4096 ∧
    4096 < (regsAt [] 0x0FF1#16).index.toNat + (15 : Reg).val + 1 ∧ (14 : Reg) ≤ 14 ∧ (14 : Reg) < 15 := by decide

/-- LoadAfterStoreRestoresRegisters, at the last I that fits. -/
theorem witness_store : ∃ t, exec (.storeRegisters 15) (regsAt [(15, 0x99#8)] 0x0FF0#16) = .next t := ⟨_, rfl⟩

/-- StoreIsSeenByTheNextFetch. -/
theorem witness_store_fetch :
    (1 : Reg) ≤ 1 ∧ (regsAt [] 0x0202#16).index = (regsAt [] 0x0202#16).pc + 2#16 ∧
    ∃ t, exec (.storeRegisters 1) (regsAt [] 0x0202#16) = .next t := ⟨by decide, by decide, ⟨_, rfl⟩⟩

/-- CanonicalMemoryIsUnique: two orders of writing, one of them through a byte that is taken back. -/
theorem witness_memories :
    (let m := (Memory.write [] 0x300 0x01#8).write 0xFFF 0x02#8
     let m' := (((Memory.write [] 0xFFF 0x02#8).write 0x200 0x03#8).write 0x300 0x01#8).write 0x200 0x00#8
     m.wf ∧ m'.wf ∧ ∀ a, m.read a = m'.read a) :=
  ⟨by decide, by decide, fun _ => rfl⟩

/-- OnlyRandomDependsOnTheDraw: an instruction that is not CXNN. -/
theorem witness_not_random : ∀ x nn, Instr.storeValue 1 0x05#8 ≠ .random x nn := by intro x nn h; cases h

/-- KeySkipsReadTheSteadyState: a value above 0x0F, its key held or not. -/
theorem witness_key :
    (0xA : Key).val = ((press 0xA (regs [(1, 0x1A#8)])).readReg 1).toNat % 16 ∧
    (press 0xA (regs [(1, 0x1A#8)])).key[(0xA : Key)] = true ∧ (regs [(1, 0x1A#8)]).key[(0xA : Key)] = false := by decide

/-- JustPressedIsTheLeastEdge, WaitForKeyTakesTheLeastEdge: two edges, and none. -/
theorem witness_edges :
    (press 3 (press 9 State.reset)).jp[(3 : Key)] = true ∧
    (∀ j : Key, j < 3 → (press 3 (press 9 State.reset)).jp[j] = false) ∧ ∀ k : Key, State.reset.jp[k] = false := by decide

/-- DrawSpriteTogglesCoveredPixels: the last range that fits, the first that does not, with N = 0 and N = 15. -/
theorem witness_sprite :
    (regsAt [] 0x0FF1#16).index.toNat + (15 : Fin 16).val ≤ 4096 ∧ 4096 < (regsAt [] 0x0FF2#16).index.toNat + (15 : Fin 16).val ∧
    (regsAt [] 0x1000#16).index.toNat + (0 : Fin 16).val ≤ 4096 ∧ 4096 < (regsAt [] 0x1001#16).index.toNat + (0 : Fin 16).val := by
  decide

/-- DrawSpriteTogglesCoveredPixels: a covered pixel that is set, and one that is not. -/
theorem witness_covered :
    spriteCovers [0xF0#8] 60 0 0 63 = true ∧ Screen.pixel (Screen.blank.toggle 63 0).1 0 63 = true ∧
    Screen.pixel (Screen.blank.toggle 63 0).1 0 60 = false ∧ spriteCovers [0xF0#8] 60 0 0 60 = true := by decide

/-- DrawingTwiceRestoresTheScreen: X and Y not VF, and X VF with a position that the flag then moves. -/
theorem witness_draw :
    (1 : Reg) ≠ vf ∧ (2 : Reg) ≠ vf ∧ (∃ t, exec (.drawSprite 1 2 5) State.reset = .next t) ∧
    ∃ t, exec (.drawSprite vf 0 5) (regs [(vf, 0x02#8)]) = .next t ∧ t.readReg vf = 0x00#8 :=
  ⟨by decide, by decide, ⟨_, rfl⟩, ⟨_, rfl, by decide⟩⟩

/-- StateIsWrittenOnlyByItsInstructions: each part written by an instruction that may. -/
theorem witness_written :
    goes (fun t => t.index != 0x0000#16) (exec (.storeIndex 0x300#12) State.reset) = true ∧
    goes (fun t => t.mem != []) (exec (.storeBCD 1) (regsAt [(1, 0xCD#8)] 0x0300#16)) = true ∧
    goes (fun t => t.stack != []) (exec (.call 0x300#12) State.reset) = true ∧
    goes (fun t => t.dt != 0x00#8) (exec (.setDelayTimer 1) (regs [(1, 0x05#8)])) = true ∧
    goes (fun t => t.st != 0x00#8) (exec (.setSoundTimer 1) (regs [(1, 0x05#8)])) = true ∧
    goes (fun t => lit t [(0, 0)]) (exec (.drawSprite 1 2 1) State.reset) = true := by decide

/-- StepKeepsTheInvariant: a reachable state at the largest pc that fetches, its stack full, that steps. -/
theorem witness_inv_step :
    (let s := { stackOf 12 with pc := 0x0FFE#16, mem := [(0xFFE, 0xBF#8), (0xFFF, 0xFF#8)] }
     s.Inv ∧ ∃ t, step s = .next t) :=
  ⟨⟨by decide, by decide, by decide, by simp [stackOf]⟩, ⟨_, rfl⟩⟩

/-- EveryInterleavingKeepsTheInvariant. -/
theorem witness_inv : State.reset.Inv := ⟨by decide, by decide, by decide, by simp⟩

/-- LoadProgramCopiesBytes: the longest program that fits, and one byte more. -/
theorem witness_program :
    (List.replicate 3584 0xAA#8).length ≤ 3584 ∧ 3584 < (List.replicate 3585 0xAA#8).length := by
  simp only [List.length_replicate]; decide

/-- ReleaseKeepsTheEdge, PressAddsEdgesKeypadResetClearsThem: a key not held, and another key. -/
theorem witness_release : State.reset.key[(3 : Key)] = false ∧ (4 : Key) ≠ 3 := by decide

/-- FrameEndsBatchThenDecrements, and the frame clauses of DecrementTimersSaturates and
PressAddsEdgesKeypadResetClearsThem: an error, Wait, a directive that is not Wait, a batch and a frame that end. -/
theorem witness_frame :
    tickResult State.reset = .error .unimplementedInstruction ∧
    tickResult (State.reset.withFetchWord 16 0xF30A) = .ok .wait ∧
    tickResult (State.reset.withFetchWord 16 0x1200) = .ok (.goTo 0x0200#16) ∧ Flow.goTo 0x0200#16 ≠ .wait ∧
    (∃ t, tickBatch 1 (State.reset.withFetchWord 16 0x1200) = .ok t) ∧
    ∃ t, frameOf 1 (State.reset.withFetchWord 16 0x1200) = .ok t :=
  ⟨rfl, rfl, rfl, by decide, ⟨_, rfl⟩, ⟨_, rfl⟩⟩

end Sys2Proof.Tests
end

section
/-! PROOFS. The call stack and the edge set (10_state.md R31 to R36). -/

namespace Sys2Proof.Machine

/-! ### Pushing and popping several entries -/

/-- Pop on a stack whose newest entry is known (R33). -/
@[simp] theorem pop_cons (s : State) (a : Config.StackEntry) (l : List Config.StackEntry) :
    pop { s with stack := a :: l } = .ok (a, { s with stack := l }) := rfl

theorem pop_of_depth_eq_zero {s : State} (h : s.depth = 0) : pop s = .error .stackUnderflow := by
  simp [pop, List.length_eq_zero_iff.1 h]

/-- Addresses that fit stand on the stack newest first, nothing else changed (R31, R32). -/
theorem pushAll_of_le {as : List Config.StackEntry} {s : State}
    (h : s.depth + as.length ≤ Config.stackCapacity) :
    pushAll as s = .ok { s with stack := as.reverse ++ s.stack } := by
  induction as generalizing s with
  | nil => rfl
  | cons a as ih =>
    rw [List.length_cons] at h
    have hroom : s.depth < Config.stackCapacity := by omega
    have hrest : State.depth { s with stack := a :: s.stack } + as.length ≤ Config.stackCapacity := by
      simp only [State.depth, List.length_cons] at h ⊢; omega
    simp [pushAll, push_of_lt hroom, ih hrest]

/-- Popping as often as a list is long takes that list off the top (R33). -/
theorem popAll_append (as l : List Config.StackEntry) (s : State) :
    popAll as.length { s with stack := as ++ l } = .ok (as, { s with stack := l }) := by
  induction as with
  | nil => rfl
  | cons a as ih => simp [popAll, ih]

/-! ### Which instructions change the stack -/

/-- Everything an instruction can do to the stack: Call pushes one entry, Return pops one, every other instruction
leaves the stack alone (R32, R33). -/
theorem execute_stack {i : Instr} {s u : State} {f : Flow} (h : execute i s = .ok (u, f)) :
    u.stack = s.stack ∨ (∃ nnn, i = .call nnn ∧ u.stack = (s.pc + instrSize) :: s.stack) ∨
      i = .ret ∧ ∃ a, s.stack = a :: u.stack := by
  cases i <;> simp only [execute] at h
  case ret =>
    simp only [effectReturn] at h
    split at h
    · obtain ⟨rest, hs, rfl⟩ := pop_ok ‹_›
      cases h; exact .inr (.inr ⟨rfl, _, hs⟩)
    · cases h
  case call nnn =>
    simp only [effectCall] at h
    split at h
    · obtain ⟨-, rfl⟩ := push_ok ‹_›
      cases h; exact .inr (.inl ⟨nnn, rfl, rfl⟩)
    · cases h
  case executeMachineCode => cases h
  case storeBCD | storeRegisters | loadRegisters | drawSprite | waitForKey =>
    simp only [effectStoreBCD, effectStoreRegisters, effectLoadRegisters, effectDrawSprite, effectWaitForKey] at h
    split at h <;> cases h <;> exact .inl rfl
  all_goals (cases h; exact .inl rfl)

/-- The same for the whole instruction, pc moved: a stack that changed was changed by Call or by Return. -/
theorem exec_changes_stack {i : Instr} {s t : State} (h : exec i s = .next t) (hne : t.stack ≠ s.stack) :
    (∃ nnn a, i = .call nnn ∧ t.stack = a :: s.stack) ∨ ∃ a, i = .ret ∧ s.stack = a :: t.stack := by
  obtain ⟨u, f, hu, rfl⟩ := finish_next ((exec_eq_finish i s).symm.trans h)
  rw [State.follow_stack] at hne ⊢
  rcases execute_stack hu with hsame | ⟨nnn, hi, hpush⟩ | ⟨hi, a, hpop⟩
  · exact absurd hsame hne
  · exact .inl ⟨nnn, _, hi, hpush⟩
  · exact .inr ⟨a, hi, hpop⟩

/-- Settles O17: a pushed list lies reversed on the stack, so popping takes it off in that order; the failures are
push's and pop's own, and the last clause is `exec_changes_stack`. -/
theorem stackIsLastInFirstOut : Obligations.StackIsLastInFirstOut := by
  refine ⟨fun as s hfit => ?_, fun _ _ hfull => push_of_le hfull.ge, fun _ => pop_of_depth_eq_zero,
    fun _ _ _ => exec_changes_stack⟩
  refine ⟨_, pushAll_of_le hfit, ?_, ?_⟩
  · simp [State.depth, Nat.add_comm]
  · simpa using popAll_append as.reverse s.stack s

/-! ### The edge set -/

/-- The answered key is in the edge set and no lower key is (R36): the search runs over the keys in rising order. -/
theorem justPressed_eq_some_iff {s : State} {k : Key} :
    justPressed s = some k ↔ s.jp[k] = true ∧ ∀ j : Key, j < k → s.jp[j] = false := by
  rw [justPressed, List.find?_eq_some_iff_getElem]
  refine and_congr_right fun _ => ⟨?_, fun hlow => ⟨k.val, by simp, by simp, fun j hj => ?_⟩⟩
  · rintro ⟨i, hi, rfl, hlow⟩ j hj
    simpa using hlow j.val (by simpa [Fin.lt_def] using hj)
  · simpa using hlow ⟨j, by omega⟩ hj

/-- Settles O44: the search's answer is the least edge, and it has none exactly on an empty edge set. -/
theorem justPressedIsTheLeastEdge : Obligations.JustPressedIsTheLeastEdge :=
  fun _ => ⟨fun _ => justPressed_eq_some_iff, justPressed_none⟩

end Sys2Proof.Machine
end

section
/-! PROOFS. Operands assembled from nibbles (30_encoding.md R103). -/

namespace Sys2Proof.Machine

/-- NNN as its three nibbles shifted into place, the form in which R103 states it. -/
theorem assembleAddr_toNat_eq_or (n1 n2 n3 : Nibble) :
    (assembleAddr n1 n2 n3).toNat = n1.toNat <<< 8 ||| n2.toNat <<< 4 ||| n3.toNat := by
  rw [assembleAddr, BitVec.toNat_append, BitVec.toNat_append, Nat.shiftLeft_or_distrib, ← Nat.shiftLeft_add]

/-- An address operand stays in the 4096 bytes of memory: zero-extension leaves a 12-bit number as it is. -/
theorem addressOf_le (nnn : Addr12) : (addressOf nnn).toNat ≤ 4095 := by
  rw [addressOf_toNat]
  exact Nat.le_of_lt_succ nnn.isLt

/-- Settles O6: appending nibbles is shifting them into place, and zero-extension keeps the number. -/
theorem operandsAreConcatenatedNibbles : Obligations.OperandsAreConcatenatedNibbles :=
  ⟨fun n1 n2 n3 => ⟨assembleAddr_toNat_eq_or n1 n2 n3,
      (addressOf_toNat _).trans (assembleAddr_toNat_eq_or n1 n2 n3), addressOf_le _⟩,
    fun _ _ => BitVec.toNat_append _ _⟩

end Sys2Proof.Machine
end

section
/-! PROOFS. Control flow (40_flow.md). -/

namespace Sys2Proof.Machine

/-- The effect of 0NNN reads neither its operand nor the state (R141). -/
@[simp] theorem execute_executeMachineCode (nnn : Addr12) (s : State) :
    execute (.executeMachineCode nnn) s = raise .unimplementedInstruction := rfl

/-- Settles O13: the effect is always the error, and an instruction whose effect is an error ends with that fault,
before any pc update. -/
theorem machineCodeIsUnimplemented : Obligations.MachineCodeIsUnimplemented := by
  intro nnn s
  rw [exec_eq_finish, execute_executeMachineCode, finish_raise]

end Sys2Proof.Machine
end

section
/-! PROOFS. Skips (41_skip.md). -/

namespace Sys2Proof.Machine

/-- An instruction whose effect is a skip on `c` and nothing else completes, moves pc as `c` says and changes nothing
but pc (R26, R160). -/
theorem exec_skips_of_execute {i : Instr} {s : State} {c : Bool} (h : execute i s = done s (skipIf c)) :
    ∃ t, exec i s = .next t ∧ SkipsIff c s t ∧ OnlyPc s t := by
  rw [exec_eq_finish, h, finish_done, State.follow_skipIf]
  exact ⟨_, rfl, rfl, onlyPc_update s _⟩

/-- The effect of 3XNN: a skip on V[X] = NN, the state as it was (R161). -/
theorem execute_skipIfEqualValue (x : Reg) (nn : Byte) (s : State) :
    execute (.skipIfEqualValue x nn) s = done s (skipIf (decide (s.readReg x = nn))) := rfl

/-- Settles O19: the pattern is the decoder's row for first nibble 3, and the effect is a skip on V[X] = NN. -/
theorem skipIfEqualValueComparesRegister : Obligations.SkipIfEqualValueComparesRegister :=
  ⟨fun _ _ _ => rfl, fun x nn s => exec_skips_of_execute (execute_skipIfEqualValue x nn s)⟩

end Sys2Proof.Machine
end

section
/-! PROOFS. Register writes (42_alu.md). -/

namespace Sys2Proof.Machine

/-- An instruction whose effect is one register write and Advance completes, leaves the byte in that register, moves pc
past itself and changes nothing else (R26, R170). -/
theorem exec_writesReg_of_execute {i : Instr} {s : State} {x : Reg} {b : Byte}
    (h : execute i s = done (s.writeReg x b) .advance) :
    ∃ t, exec i s = .next t ∧ t.readReg x = b ∧ SameRegsBut x s t ∧ OnlyRegs s t ∧ Advances s t := by
  rw [exec_eq_finish, h, finish_done]
  have hread : ((s.writeReg x b).follow .advance).readReg x = b := by
    rw [State.readReg_follow, State.readReg_writeReg_same]
  exact ⟨_, rfl, hread, sameRegsBut_writeReg s x b .advance, onlyRegs_update s _ _, rfl⟩

/-- The effect of 6XNN: NN written to V[X], then Advance (R171). -/
theorem execute_storeValue (x : Reg) (nn : Byte) (s : State) :
    execute (.storeValue x nn) s = done (s.writeReg x nn) .advance := rfl

/-- Settles O21: the pattern is the decoder's row for first nibble 6, and the effect is one register write. -/
theorem storeValueWritesImmediate : Obligations.StoreValueWritesImmediate :=
  ⟨fun _ _ _ => rfl, fun x nn s => exec_writesReg_of_execute (execute_storeValue x nn s)⟩

end Sys2Proof.Machine
end

section
/-! PROOFS. A tick that fails (60_exceptions.md R263, R265). -/

namespace Sys2Proof.Machine

/-- The third check of R265, after fetch and decode: the error kind the instruction itself raises in this state, if any.
It reads the depth of the stack and I and nothing else of the state. -/
def ownFault (i : Instr) (s : State) : Option Fault :=
  match i with
  | .executeMachineCode _ => some .unimplementedInstruction
  | .ret => if s.depth = 0 then some .stackUnderflow else none
  | .call _ => if s.depth < Config.stackCapacity then none else some .stackOverflow
  | .drawSprite _ _ n => if s.index.toNat + n.val ≤ Config.memSize then none else some .outOfBoundRange
  | .storeBCD _ => if s.index.toNat + 3 ≤ Config.memSize then none else some .outOfBoundAddress
  | .storeRegisters x | .loadRegisters x =>
    if s.index.toNat + (x.val + 1) ≤ Config.memSize then none else some .outOfBoundAddress
  | _ => none

/-- An instruction's effect is an error exactly when its own check raises that error: no other part of an effect can
fail. -/
theorem execute_eq_error_iff {i : Instr} {s : State} {f : Fault} :
    execute i s = .error f ↔ ownFault i s = some f := by
  cases i
  case executeMachineCode => simp [execute_executeMachineCode, raise, ownFault]
  case ret =>
    cases hs : s.stack <;> simp [execute, effectReturn, pop, ownFault, State.depth, hs, raise, done]
  case call =>
    simp only [execute, effectCall, push, ownFault, State.depth]
    by_cases h : s.stack.length < Config.stackCapacity <;> simp [h, raise, done]
  case drawSprite x y n =>
    simp only [execute, effectDrawSprite, memRead_eq, ownFault]
    by_cases h : s.index.toNat + n.val ≤ Config.memSize <;> simp [h, raise, done]
  case storeBCD x =>
    simp only [execute, effectStoreBCD, memWrite_eq, length_bcdDigits, ownFault]
    by_cases h : s.index.toNat + 3 ≤ Config.memSize <;> simp [h, raise, done]
  case storeRegisters x =>
    simp only [execute, effectStoreRegisters, memWrite_eq, length_regsUpTo, ownFault]
    by_cases h : s.index.toNat + (x.val + 1) ≤ Config.memSize <;> simp [h, raise, done]
  case loadRegisters x =>
    simp only [execute, effectLoadRegisters, memRead_eq, ownFault]
    by_cases h : s.index.toNat + (x.val + 1) ≤ Config.memSize <;> simp [h, raise, done]
  case waitForKey =>
    simp only [execute, effectWaitForKey, ownFault]
    cases justPressed s <;> simp [done]
  all_goals exact ⟨nofun, nofun⟩

/-- A tick fails exactly when no instruction can be fetched or the fetched one's own check fails (R265). -/
theorem tick_eq_error_iff {s : State} {f : Fault} :
    tick s = .error f ↔ fetchInstr s = .error f ∨ ∃ i, fetchInstr s = .ok i ∧ ownFault i s = some f := by
  unfold tick
  cases hi : fetchInstr s with
  | error g => simp
  | ok i =>
    simp only [reduceCtorEq, false_or, Except.ok.injEq, exists_eq_left', ← execute_eq_error_iff]
    cases execute i s <;> simp

/-- The driver sees an error kind exactly when the tick gives it (R276). -/
theorem tickResult_eq_error_iff {s : State} {f : Fault} : tickResult s = .error f ↔ tick s = .error f := by
  unfold tickResult
  cases tick s <;> simp

theorem afterTick_of_error {s : State} {f : Fault} (h : tick s = .error f) : afterTick s = s := by
  rw [afterTick, h]

/-- Fetch, decode and the instruction's own check never read the draw counter, so a failure does not depend on it
(R263). -/
theorem tick_error_of_draws {s : State} {f : Fault} (h : tick s = .error f) (k : Nat) :
    tick { s with draws := k } = .error f := by
  rw [tick_eq_error_iff] at h ⊢
  exact h

/-- Settles O11: an error keeps the state, so the same tick fails again, and no check of a tick reads the draw
counter. -/
theorem failedTickLeavesNoTrace : Obligations.FailedTickLeavesNoTrace := by
  intro s f hfail
  have htick : tick s = .error f := tickResult_eq_error_iff.1 hfail
  have hkeep : afterTick s = s := afterTick_of_error htick
  exact ⟨hkeep, hkeep.symm ▸ hfail, fun k => tickResult_eq_error_iff.2 (tick_error_of_draws htick k)⟩

end Sys2Proof.Machine
end

section
/-! PROOFS. The timer decrement (60_exceptions.md R277). -/

namespace Sys2Proof.Machine

/-- On natural numbers, where subtraction stops at zero, the saturating decrement is a subtraction (R29). -/
@[simp] theorem countDown_toNat (b : Byte) : (countDown b).toNat = b.toNat - 1 := by
  unfold countDown
  split
  · subst b; rfl
  · bv_omega

@[simp] theorem decrementTimers_dt (s : State) : (decrementTimers s).dt = countDown s.dt := rfl
@[simp] theorem decrementTimers_st (s : State) : (decrementTimers s).st = countDown s.st := rfl

/-- A frame whose batch ends decrements the timers once and then empties the edge set (R326). -/
theorem frameOf_of_tickBatch {n : Nat} {s t : State} (h : tickBatch n s = .ok t) :
    frameOf n s = .ok (keypadReset (decrementTimers t)) := by
  rw [frameOf, h]

/-- Settles O57: the decrement is `countDown` on each timer, and a frame applies it once to the state its batch ends
in. -/
theorem decrementTimersSaturates : Obligations.DecrementTimersSaturates := by
  refine ⟨fun s => ⟨countDown_toNat s.dt, countDown_toNat s.st, rfl⟩, fun n s t hbatch => ?_⟩
  refine ⟨_, frameOf_of_tickBatch hbatch, ?_, ?_⟩ <;> simp

end Sys2Proof.Machine
end

section
/-! PROOFS. The decoder and the encoder undo each other, and the words of the opcode map and outside it (30_encoding.md
R100 to R109). -/

namespace Sys2Proof

open Sys2Proof.Machine

/-- Three nibbles are determined by the address they spell (R103). -/
theorem assembleAddr_inj {a b c a' b' c' : Nibble} :
    assembleAddr a b c = assembleAddr a' b' c' ↔ a = a' ∧ b = b' ∧ c = c' := by
  constructor
  · intro h
    exact ⟨by simpa using congrArg (·.extractLsb' 8 4) h, by simpa using congrArg (·.extractLsb' 4 4) h,
      by simpa using congrArg (·.extractLsb' 0 4) h⟩
  · rintro ⟨rfl, rfl, rfl⟩
    rfl

/-- 0NNN is well formed exactly when its nibbles are not those of 00E0 or 00EE (R106). -/
theorem wf_machineCode_iff {a b c : Nibble} :
    (Instr.executeMachineCode (assembleAddr a b c)).wf = true ↔
      ¬ (a = 0x0#4 ∧ b = 0xE#4 ∧ c = 0x0#4) ∧ ¬ (a = 0x0#4 ∧ b = 0xE#4 ∧ c = 0xE#4) := by
  have hE0 : 0x0E0#12 = assembleAddr 0x0#4 0xE#4 0x0#4 := rfl
  have hEE : 0x0EE#12 = assembleAddr 0x0#4 0xE#4 0xE#4 := rfl
  simp [Instr.wf, hE0, hEE, assembleAddr_inj]

/-- Every 0NNN but 00E0 and 00EE is row 3 of the opcode map (R106). -/
theorem decode_machineCode {a b c : Nibble} (h : (Instr.executeMachineCode (assembleAddr a b c)).wf = true) :
    decode ⟨0x0, a, b, c⟩ = .ok (.executeMachineCode (assembleAddr a b c)) := by
  rw [wf_machineCode_iff] at h
  obtain ⟨hE0, hEE⟩ := h
  unfold decode
  split
  case h_1 ha hb hc => exact absurd ⟨ha, hb, hc⟩ hE0
  case h_2 ha hb hc => exact absurd ⟨ha, hb, hc⟩ hEE
  case h_3 => rfl
  all_goals simp_all

/-- The patterns of R107 are read back row by row; only 0NNN needs its address not to be one of the two that rows 1 and
2 take first. -/
theorem decode_encodeNibbles {i : Instr} (h : i.wf = true) : decode (encodeNibbles i) = .ok i := by
  cases i
  case executeMachineCode nnn =>
    rw [← assembleAddr_extract nnn] at h ⊢
    simpa [encodeNibbles, formatNNN] using decode_machineCode h
  all_goals simp [encodeNibbles, formatNNN, formatXNN, formatXY, formatX, decode]

/-- Every nibble pattern that decodes is that of one well-formed instruction: each row of the map gives its fields back,
and row 3 was reached past rows 1 and 2. -/
theorem encodeNibbles_of_decode {q : Nibbles} {i : Instr} (h : decode q = .ok i) :
    i.wf = true ∧ encodeNibbles i = q := by
  obtain ⟨n0, n1, n2, n3⟩ := q
  unfold decode at h
  split at h
  case h_3 hE0 hEE =>
    cases h
    exact ⟨wf_machineCode_iff.2 ⟨fun ⟨h1, h2, h3⟩ => hE0 h1 h2 h3, fun ⟨h1, h2, h3⟩ => hEE h1 h2 h3⟩,
      by simp_all [encodeNibbles, formatNNN]⟩
  case h_36 => cases h
  all_goals
    cases h
    simp_all [encodeNibbles, formatNNN, formatXNN, formatXY, formatX, Instr.wf]

/-- Settles O1: the bytes of an instruction hold its nibbles, and those decode to it. -/
theorem decodeOfEncodeIsIdentity : Obligations.DecodeOfEncodeIsIdentity := by
  intro i rest hwf
  rw [encode, List.cons_append, List.cons_append, List.nil_append, decodeBytes_cons_cons, nibblesOf_append,
    decode_encodeNibbles hwf]
  rfl

/-- Settles O2: bytes decode as their nibbles do, and appending the nibbles of a byte gives the byte. -/
theorem encodeOfDecodeIsIdentity : Obligations.EncodeOfDecodeIsIdentity := by
  intro b0 b1 rest rest' i h
  rw [decodeBytes_cons_cons] at h
  cases hd : decode (nibblesOf b0 b1) with
  | error e => rw [hd] at h; cases h
  | ok j =>
    rw [hd] at h
    cases h
    obtain ⟨hwf, henc⟩ := encodeNibbles_of_decode hd
    exact ⟨hwf, rfl, by simp [encode, henc, nibblesOf]⟩

/-! ### The words outside the map -/

/-- The sixteen nibbles, for a case split. -/
theorem Nibble.mem_all (n : Nibble) : n ∈ [0x0#4, 0x1#4, 0x2#4, 0x3#4, 0x4#4, 0x5#4, 0x6#4, 0x7#4, 0x8#4, 0x9#4,
    0xA#4, 0xB#4, 0xC#4, 0xD#4, 0xE#4, 0xF#4] := by
  revert n; decide

/-- Settles O3: a word of a row is none of the listed ones; a word past all rows has first nibble 5, 8, 9, E or F, and
each of these leaves what is listed under it. -/
theorem unknownWordsAreExactlyTheListed : Obligations.UnknownWordsAreExactlyTheListed := by
  intro q
  unfold decode
  split
  case h_36 =>
    refine iff_of_true rfl ?_
    have hn0 : q.n0 = 0x5#4 ∨ q.n0 = 0x8#4 ∨ q.n0 = 0x9#4 ∨ q.n0 = 0xE#4 ∨ q.n0 = 0xF#4 := by
      have := Nibble.mem_all q.n0
      simp_all
    have hn3 := Nibble.mem_all q.n3
    rcases hn0 with h | h | h | h | h <;> simp_all
  all_goals
    refine iff_of_false nofun ?_
    simp_all

/-! ### The rows of the map -/

/-- A nibble that a row's mask keeps whole is the row's own. -/
theorem extract_eq_of_and_eq {w mask mtch : Word} (h : w &&& mask = mtch) {i : Nat}
    (hm : mask.extractLsb' i 4 = 0xF#4) : w.extractLsb' i 4 = mtch.extractLsb' i 4 := by
  rw [← h, BitVec.extractLsb'_and, hm]
  exact (BitVec.and_allOnes (x := w.extractLsb' i 4)).symm

/-- A row whose mask keeps the whole word stands for that word only. -/
theorem rowDecodes_word {mtch : Word} {i : Instr} (h : decodeWord mtch = .ok i) :
    RowDecodes 0xFFFF#16 mtch (fun _ => i) := by
  intro w hw
  have hall : w &&& 0xFFFF#16 = w := BitVec.and_allOnes
  rw [← hall, hw, h]

/-- A row of format NNN (R101). -/
theorem rowDecodes_NNN {mtch : Word} {f : Addr12 → Instr}
    (h : ∀ a b c, decode ⟨mtch.extractLsb' 12 4, a, b, c⟩ = .ok (f (assembleAddr a b c))) :
    RowDecodes 0xF000#16 mtch (fun w => f (fieldNNN w)) := by
  intro w hw
  rw [decodeWord, nibblesOfWord, extract_eq_of_and_eq hw rfl, h, assembleAddr_of_word]
  rfl

/-- A row of format XNN (R101). -/
theorem rowDecodes_XNN {mtch : Word} {f : Reg → Byte → Instr}
    (h : ∀ x a b, decode ⟨mtch.extractLsb' 12 4, x, a, b⟩ = .ok (f (nibbleIndex x) (assembleByte a b))) :
    RowDecodes 0xF000#16 mtch (fun w => f (fieldX w) (fieldNN w)) := by
  intro w hw
  rw [decodeWord, nibblesOfWord, extract_eq_of_and_eq hw rfl, h, assembleByte_of_word]
  rfl

/-- A row of format XYN (R101). -/
theorem rowDecodes_XYN {mtch : Word} {f : Reg → Reg → Fin 16 → Instr}
    (h : ∀ x y n, decode ⟨mtch.extractLsb' 12 4, x, y, n⟩ = .ok (f (nibbleIndex x) (nibbleIndex y) (nibbleIndex n))) :
    RowDecodes 0xF000#16 mtch (fun w => f (fieldX w) (fieldY w) (fieldN w)) := by
  intro w hw
  rw [decodeWord, nibblesOfWord, extract_eq_of_and_eq hw rfl, h]
  rfl

/-- A row of format XY (R101). -/
theorem rowDecodes_XY {mtch : Word} {f : Reg → Reg → Instr}
    (h : ∀ x y, decode ⟨mtch.extractLsb' 12 4, x, y, mtch.extractLsb' 0 4⟩ = .ok (f (nibbleIndex x) (nibbleIndex y))) :
    RowDecodes 0xF00F#16 mtch (fun w => f (fieldX w) (fieldY w)) := by
  intro w hw
  rw [decodeWord, nibblesOfWord, extract_eq_of_and_eq (i := 12) hw rfl, extract_eq_of_and_eq (i := 0) hw rfl, h]
  rfl

/-- A row of format X (R101). -/
theorem rowDecodes_X {mtch : Word} {f : Reg → Instr}
    (h : ∀ x, decode ⟨mtch.extractLsb' 12 4, x, mtch.extractLsb' 4 4, mtch.extractLsb' 0 4⟩ =
      .ok (f (nibbleIndex x))) :
    RowDecodes 0xF0FF#16 mtch (fun w => f (fieldX w)) := by
  intro w hw
  rw [decodeWord, nibblesOfWord, extract_eq_of_and_eq (i := 12) hw rfl, extract_eq_of_and_eq (i := 4) hw rfl,
    extract_eq_of_and_eq (i := 0) hw rfl, h]
  rfl

/-- A word with first nibble 0 is determined by its NNN. -/
theorem eq_append_of_fieldNNN {w : Word} {nnn : Addr12} (h : w &&& 0xF000#16 = 0x0000#16) (hn : fieldNNN w = nnn) :
    w = 0x0#4 ++ nnn := by
  have h0 : w.extractLsb' 12 4 = 0x0#4 := extract_eq_of_and_eq h rfl
  calc w = w.extractLsb' 0 (4 + 12) := BitVec.extractLsb'_eq_self.symm
    _ = w.extractLsb' 12 4 ++ w.extractLsb' 0 12 := (BitVec.extractLsb'_append_extractLsb'_eq_extractLsb' rfl).symm
    _ = 0x0#4 ++ nnn := by rw [h0, ← hn, fieldNNN]

/-- Row 3 of the map, tried after rows 1 and 2 (R106). -/
theorem machineCode_row {w : Word} (h : w &&& 0xF000#16 = 0x0000#16) (hE0 : w ≠ 0x00E0#16) (hEE : w ≠ 0x00EE#16) :
    decodeWord w = .ok (.executeMachineCode (fieldNNN w)) := by
  have hwf : (Instr.executeMachineCode (fieldNNN w)).wf = true := by
    simp only [Instr.wf, Bool.and_eq_true, bne_iff_ne]
    exact ⟨fun hn => hE0 (eq_append_of_fieldNNN h hn), fun hn => hEE (eq_append_of_fieldNNN h hn)⟩
  rw [fieldNNN, ← assembleAddr_of_word] at hwf
  rw [decodeWord, nibblesOfWord, extract_eq_of_and_eq h rfl, fieldNNN, ← assembleAddr_of_word]
  exact decode_machineCode hwf

/-- Settles O4: each row by its format, the decoder's row for its first nibble (and last) being the row's instruction. -/
theorem opcodeMapRowsDecode : Obligations.OpcodeMapRowsDecode :=
  ⟨rowDecodes_word rfl, rowDecodes_word rfl, fun _ => machineCode_row,
    rowDecodes_NNN fun _ _ _ => rfl, rowDecodes_NNN fun _ _ _ => rfl,
    rowDecodes_XNN fun _ _ _ => rfl, rowDecodes_XNN fun _ _ _ => rfl, rowDecodes_XY fun _ _ => rfl,
    rowDecodes_XNN fun _ _ _ => rfl, rowDecodes_XNN fun _ _ _ => rfl, rowDecodes_XY fun _ _ => rfl,
    rowDecodes_XY fun _ _ => rfl, rowDecodes_XY fun _ _ => rfl, rowDecodes_XY fun _ _ => rfl,
    rowDecodes_XY fun _ _ => rfl, rowDecodes_XY fun _ _ => rfl, rowDecodes_XY fun _ _ => rfl,
    rowDecodes_XY fun _ _ => rfl, rowDecodes_XY fun _ _ => rfl, rowDecodes_XY fun _ _ => rfl,
    rowDecodes_NNN fun _ _ _ => rfl, rowDecodes_NNN fun _ _ _ => rfl, rowDecodes_XNN fun _ _ _ => rfl,
    rowDecodes_XYN fun _ _ _ => rfl, rowDecodes_X fun _ => rfl, rowDecodes_X fun _ => rfl,
    rowDecodes_X fun _ => rfl, rowDecodes_X fun _ => rfl, rowDecodes_X fun _ => rfl, rowDecodes_X fun _ => rfl,
    rowDecodes_X fun _ => rfl, rowDecodes_X fun _ => rfl, rowDecodes_X fun _ => rfl, rowDecodes_X fun _ => rfl,
    rowDecodes_X fun _ => rfl⟩

/-- Settles O5: the decoder run on each word. -/
theorem sampleWordsDecode : Obligations.SampleWordsDecode := by
  and_intros <;> rfl

end Sys2Proof
end

section
/-! PROOFS. What the instructions that can stop, or wait, do, one equation each; and an instruction's end. -/

namespace Sys2Proof.Machine

/-! ### From an effect to the whole instruction -/

theorem exec_of_done {i : Instr} {s u : State} {f : Flow} (h : execute i s = done u f) :
    exec i s = .next (u.follow f) := by
  rw [exec_eq_finish, h, finish_done]

theorem exec_of_raise {i : Instr} {s : State} {f : Fault} (h : execute i s = raise f) : exec i s = .fault f := by
  rw [exec_eq_finish, h, finish_raise]

/-- An instruction that ends with a next state ran without error, and its directive moved pc (R27). -/
theorem exec_next {i : Instr} {s t : State} (h : exec i s = .next t) :
    ∃ u f, execute i s = .ok (u, f) ∧ t = u.follow f :=
  finish_next ((exec_eq_finish i s).symm.trans h)

/-! ### The instructions that check the stack -/

theorem execute_ret_nil {s : State} (h : s.stack = []) : execute .ret s = raise .stackUnderflow := by
  simp [execute, effectReturn, pop, h]

theorem execute_ret_cons {s : State} {a : Config.StackEntry} {rest : List Config.StackEntry} (h : s.stack = a :: rest) :
    execute .ret s = done { s with stack := rest } (.goTo a) := by
  simp [execute, effectReturn, pop, h]

/-- A Return that runs has popped an entry and goes to it. -/
theorem execute_ret_ok {s u : State} {f : Flow} (h : execute .ret s = .ok (u, f)) :
    ∃ a rest, s.stack = a :: rest ∧ u = { s with stack := rest } ∧ f = .goTo a := by
  rcases hs : s.stack with _ | ⟨a, rest⟩
  · rw [execute_ret_nil hs] at h; cases h
  · rw [execute_ret_cons hs] at h; cases h; exact ⟨a, rest, rfl, rfl, rfl⟩

theorem execute_call (nnn : Addr12) (s : State) :
    execute (.call nnn) s = if s.depth < Config.stackCapacity then
      done { s with stack := (s.pc + instrSize) :: s.stack } (.goTo (addressOf nnn))
    else raise .stackOverflow := by
  split
  · simp [execute, effectCall, push_of_lt ‹_›]
  · simp [execute, effectCall, push_of_le (Nat.le_of_not_lt ‹_›)]

/-! ### The instructions that check I -/

theorem execute_storeBCD (x : Reg) (s : State) :
    execute (.storeBCD x) s = if s.index.toNat + 3 ≤ Config.memSize then
      done { s with mem := s.mem.writeBytes s.index.toNat (bcdDigits (s.readReg x)) } .advance
    else raise .outOfBoundAddress := by
  simp only [execute, effectStoreBCD, memWrite_eq, length_bcdDigits]
  split_ifs with h <;> simp [h]

theorem execute_storeRegisters (x : Reg) (s : State) :
    execute (.storeRegisters x) s = if s.index.toNat + (x.val + 1) ≤ Config.memSize then
      done { s with mem := s.mem.writeBytes s.index.toNat (regsUpTo s x), index := indexPast s x } .advance
    else raise .outOfBoundAddress := by
  simp only [execute, effectStoreRegisters, memWrite_eq, length_regsUpTo]
  split_ifs <;> rfl

theorem execute_loadRegisters (x : Reg) (s : State) :
    execute (.loadRegisters x) s = if s.index.toNat + (x.val + 1) ≤ Config.memSize then
      done { s with
        v := loadRegsFrom s.v 0 (s.mem.readBytes s.index.toNat (x.val + 1)), index := indexPast s x } .advance
    else raise .outOfBoundAddress := by
  simp only [execute, effectLoadRegisters, memRead_eq]
  split_ifs <;> rfl

/-- What DXYN draws: the rows at I, at (V[X], V[Y]) as they are (R242). -/
def spriteDrawn (x y : Reg) (n : Fin 16) (s : State) : Screen × Bool :=
  s.fb.draw (s.readReg x).toNat (s.readReg y).toNat (s.mem.readBytes s.index.toNat n.val)

theorem execute_drawSprite (x y : Reg) (n : Fin 16) (s : State) :
    execute (.drawSprite x y n) s = if s.index.toNat + n.val ≤ Config.memSize then
      done ({ s with fb := (spriteDrawn x y n s).1 }.writeReg vf (collisionFlag (spriteDrawn x y n s).2)) .advance
    else raise .outOfBoundRange := by
  simp only [execute, effectDrawSprite, memRead_eq]
  split_ifs <;> rfl

/-! ### The instruction that can wait -/

theorem execute_waitForKey_some {s : State} {k : Key} (h : justPressed s = some k) (x : Reg) :
    execute (.waitForKey x) s = done (s.writeReg x (keyByte k)) .advance := by
  simp [execute, effectWaitForKey, h]

theorem execute_waitForKey_none {s : State} (h : justPressed s = none) (x : Reg) :
    execute (.waitForKey x) s = done s .wait := by
  simp [execute, effectWaitForKey, h]

/-- An FX0A has taken the least edge, or waits and has changed nothing. -/
theorem execute_waitForKey_ok {x : Reg} {s u : State} {f : Flow} (h : execute (.waitForKey x) s = .ok (u, f)) :
    (∃ k, justPressed s = some k ∧ u = s.writeReg x (keyByte k) ∧ f = .advance) ∨
      justPressed s = none ∧ u = s ∧ f = .wait := by
  cases hk : justPressed s with
  | some k => rw [execute_waitForKey_some hk] at h; cases h; exact .inl ⟨k, rfl, rfl, rfl⟩
  | none => rw [execute_waitForKey_none hk] at h; cases h; exact .inr ⟨rfl, rfl, rfl⟩

end Sys2Proof.Machine
end

section
/-! PROOFS. The tick and the step (10_state.md R25 to R27; 60_exceptions.md R260, R262, R265). -/

namespace Sys2Proof.Machine

/-! ### A step is a tick -/

/-- Everything a tick can answer with a next state (R27): the tick's form of `step_next`. -/
theorem tick_ok {s t : State} {f : Flow} (h : tick s = .ok (t, f)) :
    ∃ i u, fetchInstr s = .ok i ∧ execute i s = .ok (u, f) ∧ t = u.follow f := by
  unfold tick at h
  split at h
  · cases h
  · split at h
    · cases h
    · cases h; exact ⟨_, _, ‹_›, ‹_›, rfl⟩

theorem step_of_fetchInstr {s : State} {i : Instr} (h : fetchInstr s = .ok i) : step s = exec i s := by
  rw [step, h]

/-- The step is the tick with its directive forgotten. -/
theorem step_of_tick_ok {s t : State} {f : Flow} (h : tick s = .ok (t, f)) : step s = .next t := by
  obtain ⟨i, u, hi, hu, rfl⟩ := tick_ok h
  rw [step_of_fetchInstr hi, exec_eq_finish, hu, finish_ok]

theorem step_of_tick_error {s : State} {f : Fault} (h : tick s = .error f) : step s = .fault f := by
  rcases tick_eq_error_iff.1 h with hfetch | ⟨i, hi, hown⟩
  · rw [step, hfetch]
  · rw [step_of_fetchInstr hi, exec_eq_finish, execute_eq_error_iff.2 hown, finish_error]

theorem step_eq_fault_iff {s : State} {f : Fault} : step s = .fault f ↔ tick s = .error f := by
  rcases ht : tick s with g | ⟨t, d⟩
  · simp [step_of_tick_error ht]
  · simp [step_of_tick_ok ht]

/-- Settles O8: a tick answers either way, and the step follows it in each. -/
theorem stepIsTheTickWithoutItsDirective : Obligations.StepIsTheTickWithoutItsDirective := by
  intro s
  refine ⟨fun t => ?_, fun f => step_eq_fault_iff, fun r => ?_⟩ <;> rcases ht : tick s with g | ⟨t', d⟩
  · simp [step_of_tick_error ht]
  · simp [step_of_tick_ok ht]
  · simp [step_of_tick_error ht]
  · simp [step_of_tick_ok ht]

/-- Settles O7: the fetch reads those two bytes and the decoder reads them as that instruction. -/
theorem stepRunsTheDecodedInstruction : Obligations.StepRunsTheDecodedInstruction := by
  intro s i _ hpc hdec
  have hbytes : s.pc.toNat + 2 ≤ Config.memSize := by simp only [Config.memSize]; omega
  have hi : decode (nibblesOf (s.mem.read s.pc.toNat) (s.mem.read (s.pc.toNat + 1))) = .ok i := by
    rw [decodeBytes_cons_cons] at hdec
    cases hd : decode (nibblesOf (s.mem.read s.pc.toNat) (s.mem.read (s.pc.toNat + 1))) with
    | error e => rw [hd] at hdec; cases hdec
    | ok j => rw [hd] at hdec; cases hdec; rfl
  apply step_of_fetchInstr
  rw [fetchInstr, fetch_eq, if_pos hbytes]
  simp [hi]

/-! ### Flow directives -/

/-- Settles O9: the instruction leaves pc at its own address, below 4095, for its directive to move, so no sum reaches
65536. -/
theorem flowDirectiveMovesPc : Obligations.FlowDirectiveMovesPc := by
  intro s t f h
  obtain ⟨i, u, hi, hu, rfl⟩ := tick_ok h
  obtain ⟨hpc, -⟩ := fetchInstr_ok hi
  obtain ⟨hupc, -, -⟩ := execute_keeps hu
  simp only [Config.memSize] at hpc
  cases f with
  | advance => rw [State.follow_advance_pc, hupc]; bv_omega
  | skip => rw [State.follow_skip_pc, hupc]; bv_omega
  | goTo a => rfl
  | wait => exact hupc

/-- BNNN reaches at most 0xFFF + 0xFF, and its sum does not wrap (R28, R145). -/
theorem jumpTarget_toNat (nnn : Addr12) (b : Byte) : (addressOf nnn + promote b).toNat = nnn.toNat + b.toNat := by
  have hnnn := nnn.isLt
  have hb := b.isLt
  rw [BitVec.toNat_add, addressOf_toNat, promote_toNat]
  omega

theorem jumpTarget_le (nnn : Addr12) (b : Byte) : (addressOf nnn + promote b).toNat ≤ 0x10FE := by
  have hnnn := nnn.isLt
  have hb := b.isLt
  rw [jumpTarget_toNat]
  omega

/-- What a directive says of the instruction `i`, run from `s` to `u`, that ended with it: a jump goes to a saved return
address or to at most 0xFFF + 0xFF (R28), and only FX0A waits, with an empty edge set and changing nothing (R227). -/
def MayFlow (i : Instr) (s u : State) : Flow → Prop
  | .advance => True
  | .skip => True
  | .goTo a => a ∈ s.stack ∨ a.toNat ≤ 0x10FE
  | .wait => (∃ x, i = .waitForKey x) ∧ u = s ∧ justPressed s = none

theorem mayFlow_skipIf (i : Instr) (s u : State) (c : Bool) : MayFlow i s u (skipIf c) := by
  cases c <;> trivial

theorem execute_flow {i : Instr} {s u : State} {f : Flow} (h : execute i s = .ok (u, f)) : MayFlow i s u f := by
  cases i
  case ret => obtain ⟨a, rest, hs, rfl, rfl⟩ := execute_ret_ok h; exact .inl (hs ▸ List.mem_cons_self)
  case jump nnn => cases h; exact .inr ((addressOf_le nnn).trans (by decide))
  case call nnn => rw [execute_call] at h; split at h <;> cases h; exact .inr ((addressOf_le nnn).trans (by decide))
  case jumpWithOffset nnn => cases h; exact .inr (jumpTarget_le nnn _)
  case waitForKey x =>
    obtain ⟨k, -, rfl, rfl⟩ | ⟨hk, rfl, rfl⟩ := execute_waitForKey_ok h
    · trivial
    · exact ⟨⟨x, rfl⟩, rfl, hk⟩
  case storeBCD | storeRegisters | loadRegisters | drawSprite =>
    simp only [execute_storeBCD, execute_storeRegisters, execute_loadRegisters, execute_drawSprite] at h
    split at h <;> cases h
    trivial
  case executeMachineCode => cases h
  case skipIfEqualValue | skipIfNotEqualValue | skipIfEqualRegister | skipIfNotEqualRegister | skipIfKeyPressed |
      skipIfKeyNotPressed =>
    cases h; exact mayFlow_skipIf ..
  all_goals cases h; trivial

/-- Settles O10: only an FX0A without an edge waits, and it leaves the state as it was, for its directive too. -/
theorem waitTickChangesNothing : Obligations.WaitTickChangesNothing := by
  intro s t h
  obtain ⟨i, u, hi, hu, rfl⟩ := tick_ok h
  obtain ⟨⟨x, rfl⟩, rfl, hedge⟩ := execute_flow hu
  exact ⟨rfl, step_of_tick_ok h, ⟨x, hi⟩, justPressed_none.1 hedge⟩

/-! ### When a step stops -/

/-- A word is refused for one reason only: it matches no row. -/
theorem decode_error {q : Nibbles} {e : DecodeError} (h : decode q = .error e) : e = .unknownInstruction := by
  unfold decode at h
  split at h <;> cases h
  rfl

/-- The first two checks of R265, fetch and decode, with their kinds (R67, R108). -/
theorem fetchInstr_eq_error_iff {s : State} {f : Fault} :
    fetchInstr s = .error f ↔ f = .outOfBoundAddress ∧ 4095 ≤ s.pc.toNat ∨
      f = .unknownInstruction ∧ s.pc.toNat < 4095 ∧
        decode (nibblesOf (s.mem.read s.pc.toNat) (s.mem.read (s.pc.toNat + 1))) = .error .unknownInstruction := by
  by_cases hpc : s.pc.toNat + 2 ≤ Config.memSize
  · have hlt : s.pc.toNat < 4095 := by simp only [Config.memSize] at hpc; omega
    rw [fetchInstr, fetch_eq, if_pos hpc]
    cases hd : decode (nibblesOf (s.mem.read s.pc.toNat) (s.mem.read (s.pc.toNat + 1))) with
    | ok i => simp [hd, hlt]
    | error e => obtain rfl := decode_error hd; simp [hd, hlt, eq_comm]
  · have hge : 4095 ≤ s.pc.toNat := by simp only [Config.memSize] at hpc; omega
    rw [fetchInstr, fetch_eq, if_neg hpc]
    simp [hge, Nat.not_lt.2 hge, eq_comm]

/-- The third check of R265 by error kind: which instruction raises it, and on what. -/
theorem ownFault_eq_some_iff {i : Instr} {s : State} {f : Fault} :
    ownFault i s = some f ↔
      f = .stackOverflow ∧ (∃ nnn, i = .call nnn ∧ 12 ≤ s.depth) ∨
      f = .stackUnderflow ∧ (i = .ret ∧ s.depth = 0) ∨
      f = .outOfBoundAddress ∧ ((∃ x, i = .storeBCD x ∧ 4094 ≤ s.index.toNat) ∨
        (∃ x, i = .storeRegisters x ∧ 4095 < s.index.toNat + x.val) ∨
        ∃ x, i = .loadRegisters x ∧ 4095 < s.index.toNat + x.val) ∨
      f = .outOfBoundRange ∧ (∃ x y n, i = .drawSprite x y n ∧ 4096 < s.index.toNat + n.val) ∨
      f = .unimplementedInstruction ∧ ∃ nnn, i = .executeMachineCode nnn := by
  cases i
  case executeMachineCode => simp [ownFault, eq_comm]
  case ret => by_cases h : s.depth = 0 <;> simp [ownFault, h, eq_comm]
  case call =>
    have hfull : 12 ≤ s.depth ↔ ¬ s.depth < 12 := by omega
    by_cases h : s.depth < 12 <;> simp [ownFault, Config.stackCapacity, hfull, h, eq_comm]
  case drawSprite _ _ n =>
    have hpast : 4096 < s.index.toNat + n.val ↔ ¬ s.index.toNat + n.val ≤ 4096 := by omega
    by_cases h : s.index.toNat + n.val ≤ 4096 <;> simp [ownFault, Config.memSize, hpast, h, eq_comm]
  case storeBCD =>
    have hpast : 4094 ≤ s.index.toNat ↔ ¬ s.index.toNat + 3 ≤ 4096 := by omega
    by_cases h : s.index.toNat + 3 ≤ 4096 <;> simp [ownFault, Config.memSize, hpast, h, eq_comm]
  case storeRegisters x | loadRegisters x =>
    have hpast : 4095 < s.index.toNat + x.val ↔ ¬ s.index.toNat + (x.val + 1) ≤ 4096 := by omega
    by_cases h : s.index.toNat + (x.val + 1) ≤ 4096 <;> simp [ownFault, Config.memSize, hpast, h, eq_comm]
  all_goals exact iff_of_false nofun (by simp)

/-- Settles O12: a step stops where the tick does, at the fetch, at the decoder or at the instruction's own check. -/
theorem stepStopsExactlyOnTheListedErrors : Obligations.StepStopsExactlyOnTheListedErrors := by
  intro s
  constructor
  · intro f
    rw [step_eq_fault_iff, tick_eq_error_iff, fetchInstr_eq_error_iff]
    simp only [ownFault_eq_some_iff]
    cases f <;> simp [and_or_left, exists_or]
  · intro hne
    rcases ht : tick s with g | ⟨t, d⟩
    · exact absurd (step_of_tick_error ht) (hne g)
    · exact ⟨t, step_of_tick_ok ht⟩

end Sys2Proof.Machine
end

section
/-! PROOFS. The invariant (10_state.md sections 3 and 5), kept by every step and by every driver operation. -/

namespace Sys2Proof.Machine

/-! ### What an instruction does to memory and the stack -/

/-- Only FX33 and FX55 write memory, and only bytes that exist (R66, R70). -/
theorem execute_mem {i : Instr} {s u : State} {f : Flow} (h : execute i s = .ok (u, f)) :
    u.mem = s.mem ∨ ((∃ x, i = .storeBCD x) ∨ ∃ x, i = .storeRegisters x) ∧
      ∃ bs, s.index.toNat + bs.length ≤ Config.memSize ∧ u.mem = s.mem.writeBytes s.index.toNat bs := by
  cases i
  case storeBCD x =>
    rw [execute_storeBCD] at h
    split at h <;> cases h
    exact .inr ⟨.inl ⟨x, rfl⟩, _, by simpa using ‹_›, rfl⟩
  case storeRegisters x =>
    rw [execute_storeRegisters] at h
    split at h <;> cases h
    exact .inr ⟨.inr ⟨x, rfl⟩, _, by simpa using ‹_›, rfl⟩
  case ret => obtain ⟨a, rest, -, rfl, rfl⟩ := execute_ret_ok h; exact .inl rfl
  case waitForKey => obtain ⟨k, -, rfl, rfl⟩ | ⟨-, rfl, rfl⟩ := execute_waitForKey_ok h <;> exact .inl rfl
  case call | loadRegisters | drawSprite =>
    simp only [execute_call, execute_loadRegisters, execute_drawSprite] at h
    split at h <;> cases h
    exact .inl rfl
  case executeMachineCode => cases h
  all_goals cases h; exact .inl rfl

theorem execute_mem_wf {i : Instr} {s u : State} {f : Flow} (h : execute i s = .ok (u, f)) (hs : s.mem.wf) :
    u.mem.wf := by
  rcases execute_mem h with hsame | ⟨-, bs, hfit, hwrite⟩
  · exact hsame ▸ hs
  · exact hwrite ▸ Memory.writeBytes_wf hs hfit

/-- A Call checks for room before it pushes, so no instruction takes the stack past its capacity (R32). -/
theorem execute_depth_le {i : Instr} {s u : State} {f : Flow} (h : execute i s = .ok (u, f))
    (hs : s.depth ≤ Config.stackCapacity) : u.depth ≤ Config.stackCapacity := by
  unfold State.depth at hs ⊢
  rcases execute_stack h with hsame | ⟨nnn, rfl, hpush⟩ | ⟨-, a, hpop⟩
  · exact hsame ▸ hs
  · rw [execute_call] at h
    split at h
    · rw [hpush, List.length_cons]
      exact ‹s.depth < Config.stackCapacity›
    · cases h
  · rw [hpop, List.length_cons] at hs
    omega

/-- A Call saves the address after an instruction that was fetched, which is at most 0x1000 (R28). -/
theorem execute_return_le {i : Instr} {s u : State} {f : Flow} (h : execute i s = .ok (u, f))
    (hpc : s.pc.toNat + 2 ≤ Config.memSize) (hs : ∀ a ∈ s.stack, a.toNat ≤ 0x1000) :
    ∀ a ∈ u.stack, a.toNat ≤ 0x1000 := by
  rcases execute_stack h with hsame | ⟨nnn, -, hpush⟩ | ⟨-, b, hpop⟩
  · exact hsame ▸ hs
  · have hsaved : (s.pc + instrSize).toNat ≤ 0x1000 := by
      simp only [instrSize, Config.memSize] at hpc ⊢
      bv_omega
    rw [hpush]
    exact List.forall_mem_cons.2 ⟨hsaved, hs⟩
  · rw [hpop] at hs
    exact (List.forall_mem_cons.1 hs).2

/-- From a pc that fetches, no directive takes pc past 0x10FE (R28). -/
theorem follow_pc_le {i : Instr} {s u : State} {f : Flow} (h : execute i s = .ok (u, f))
    (hpc : s.pc.toNat + 2 ≤ Config.memSize) (hs : ∀ a ∈ s.stack, a.toNat ≤ 0x1000) :
    (u.follow f).pc.toNat ≤ 0x10FE := by
  obtain ⟨hupc, -, -⟩ := execute_keeps h
  simp only [Config.memSize] at hpc
  cases f with
  | advance => rw [State.follow_advance_pc, hupc]; bv_omega
  | skip => rw [State.follow_skip_pc, hupc]; bv_omega
  | wait => rw [State.follow_wait, hupc]; omega
  | goTo a =>
    rcases execute_flow h with hsaved | hle
    · exact (hs a hsaved).trans (by decide)
    · exact hle

/-! ### The invariant -/

/-- Settles O51: reset lists no byte, has an empty stack and starts at 0x0200. -/
theorem resetMeetsTheInvariant : Obligations.ResetMeetsTheInvariant where
  mem_wf := Memory.reset_wf
  depth_le := Nat.zero_le _
  pc_le := by decide
  return_le := fun _ h => absurd h List.not_mem_nil

/-- Settles O52: a step runs an instruction fetched from a pc where both bytes exist, and each part of the invariant is
kept by the instruction's effect and by its directive. -/
theorem stepKeepsTheInvariant : Obligations.StepKeepsTheInvariant := by
  intro s t hs h
  obtain ⟨i, u, f, hi, hu, rfl⟩ := step_next h
  obtain ⟨hpc, -⟩ := fetchInstr_ok hi
  exact {
    mem_wf := by rw [State.follow_mem]; exact execute_mem_wf hu hs.mem_wf
    depth_le := by rw [State.depth, State.follow_stack]; exact execute_depth_le hu hs.depth_le
    pc_le := follow_pc_le hu hpc hs.return_le
    return_le := by rw [State.follow_stack]; exact execute_return_le hu hpc hs.return_le }

/-- A program that load_program accepts fits above 0x200, and nothing but memory changes (R272). -/
theorem loadProgram_inv {bytes : List Byte} {s t : State} (hs : s.Inv) (h : loadProgram bytes s = .ok t) : t.Inv := by
  unfold loadProgram at h
  split at h
  · cases h
    have hfit : Config.programBase + bytes.length ≤ Config.memSize :=
      Nat.add_le_add_left ‹bytes.length ≤ Config.programMax› _
    exact { hs with mem_wf := Memory.writeBytes_wf hs.mem_wf hfit }
  · cases h

/-- Each action of either agent keeps the invariant; the keypad and timer operations touch no part of it. -/
theorem afterAct_inv {s : State} (hs : s.Inv) (a : Action) : (afterAct a s).Inv := by
  unfold afterAct
  split
  case h_2 | h_3 => exact hs
  case h_1 t h =>
    cases a with
    | tick => exact stepKeepsTheInvariant s t hs h
    | loadProgram bytes =>
      simp only [act] at h
      split at h <;> cases h
      exact loadProgram_inv hs ‹_›
    | press k | release k | keypadReset | decrementTimers =>
      cases h
      exact ⟨hs.mem_wf, hs.depth_le, hs.pc_le, hs.return_le⟩

/-- Settles O53, by induction on the sequence of actions. -/
theorem everyInterleavingKeepsTheInvariant : Obligations.EveryInterleavingKeepsTheInvariant := by
  intro as
  induction as with
  | nil => exact fun _ hs => hs
  | cons a as ih => exact fun s hs => ih _ (afterAct_inv hs a)

end Sys2Proof.Machine
end

section
/-! PROOFS. What every instruction writes, over all instructions (10_state.md sections 1 to 7). -/

namespace Sys2Proof.Machine

/-! ### The V registers -/

theorem readReg_writeReg_of_writesReg_false {x r : Reg} (hr : (x == r) = false) (s : State) (b : Byte) :
    (s.writeReg x b).readReg r = s.readReg r := by
  rw [State.readReg_writeReg, if_neg (fun e => by simp [e] at hr)]

theorem readReg_writeResultFlag_of_writesReg_false {x r : Reg} (hr : (x == r) = false) (hv : r ≠ vf) (s : State)
    (b c : Byte) : (s.writeResultFlag x b c).readReg r = s.readReg r := by
  rw [State.readReg_writeResultFlag, if_neg hv, if_neg (fun e => by simp [e] at hr)]

/-- A register that is no destination of an instruction, and no flag of it, keeps its value (R21, R22). -/
theorem execute_readReg {i : Instr} {s u : State} {f : Flow} (h : execute i s = .ok (u, f)) {r : Reg}
    (hr : writesReg r i = false) (hflag : setsFlag i = true → r ≠ vf) : u.readReg r = s.readReg r := by
  cases i
  case storeValue | addValue | random | storeRegister | orRegister | andRegister | xorRegister | loadDelayTimer =>
    cases h
    exact readReg_writeReg_of_writesReg_false hr s _
  case addRegister | subRegister | subRegisterReversed | shiftRight | shiftLeft =>
    cases h
    exact readReg_writeResultFlag_of_writesReg_false hr (hflag rfl) s _ _
  case drawSprite =>
    rw [execute_drawSprite] at h
    split at h <;> cases h
    rw [State.readReg_writeReg, if_neg (hflag rfl)]
    rfl
  case loadRegisters x =>
    rw [execute_loadRegisters] at h
    split at h <;> cases h
    have hx : (s.mem.readBytes s.index.toNat (x.val + 1)).length ≤ r.val := by
      simpa [writesReg, Nat.succ_le_iff] using hr
    rw [State.readReg, getElem_loadRegsFrom]
    simp [List.getElem?_eq_none hx, State.readReg]
  case waitForKey x =>
    obtain ⟨k, -, rfl, rfl⟩ | ⟨-, rfl, rfl⟩ := execute_waitForKey_ok h
    · exact readReg_writeReg_of_writesReg_false hr s _
    · rfl
  case ret => obtain ⟨a, rest, -, rfl, rfl⟩ := execute_ret_ok h; rfl
  case call | storeBCD | storeRegisters =>
    simp only [execute_call, execute_storeBCD, execute_storeRegisters] at h
    split at h <;> cases h
    rfl
  case executeMachineCode => cases h
  all_goals cases h; rfl

theorem noBorrowFlag_eq (a b : Byte) : noBorrowFlag a b = 0x00#8 ∨ noBorrowFlag a b = 0x01#8 := by
  unfold noBorrowFlag
  split
  · exact .inl rfl
  · exact .inr rfl

theorem carryFlag_zero_or_one (a b : Byte) : carryFlag a b = 0x00#8 ∨ carryFlag a b = 0x01#8 := by
  rw [carryFlag_eq]
  split
  · exact .inr rfl
  · exact .inl rfl

@[simp] theorem readReg_vf_writeResultFlag (s : State) (x : Reg) (b c : Byte) :
    (s.writeResultFlag x b c).readReg vf = c := by
  rw [State.readReg_writeResultFlag, if_pos rfl]

/-- The value of VF after an instruction that writes it as a flag: 0 or 1, but 0 or 0x80 after the shift left
(R22, conflict C6). -/
theorem execute_flag {i : Instr} {s u : State} {f : Flow} (h : execute i s = .ok (u, f)) (hflag : setsFlag i = true) :
    if ∃ x y, i = .shiftLeft x y then u.readReg vf = 0x00#8 ∨ u.readReg vf = 0x80#8
    else u.readReg vf = 0x00#8 ∨ u.readReg vf = 0x01#8 := by
  cases i
  case addRegister => cases h; simpa using carryFlag_zero_or_one _ _
  case subRegister | subRegisterReversed => cases h; simpa using noBorrowFlag_eq _ _
  case shiftRight => cases h; simpa using lowBitFlag_eq _
  case shiftLeft => cases h; simpa using highBitFlag_eq _
  case drawSprite =>
    rw [execute_drawSprite] at h
    split at h <;> cases h
    simpa using collisionFlag_eq _
  all_goals cases hflag

/-- Settles O30: the directive changes no register, so both halves are those of the instruction's effect. -/
theorem registersChangeOnlyAsNamed : Obligations.RegistersChangeOnlyAsNamed := by
  intro i s t h
  obtain ⟨u, f, hu, rfl⟩ := exec_next h
  simp only [State.readReg_follow]
  refine ⟨fun r => execute_readReg hu, fun hflag => ?_, ?_⟩
  · have hvf := execute_flag hu hflag
    split at hvf
    · rcases hvf with h0 | h80
      · exact .inl h0
      · exact .inr (.inr ⟨‹_›, h80⟩)
    · exact hvf.imp_right .inl
  · rintro ⟨x, y, rfl⟩
    have hvf := execute_flag hu rfl
    rw [if_pos ⟨x, y, rfl⟩] at hvf
    rcases hvf with h0 | h80
    · rw [h0]; decide
    · rw [h80]; decide

/-! ### I, the timers and the screen -/

/-- Which instructions write I, a timer or the screen. -/
theorem execute_writes {i : Instr} {s u : State} {f : Flow} (h : execute i s = .ok (u, f)) :
    (u.index ≠ s.index → (∃ nnn, i = .storeIndex nnn) ∨ (∃ x, i = .addToIndex x) ∨ (∃ x, i = .fontAddress x) ∨
      (∃ x, i = .storeRegisters x) ∨ ∃ x, i = .loadRegisters x) ∧
    (u.dt ≠ s.dt → ∃ x, i = .setDelayTimer x) ∧
    (u.st ≠ s.st → ∃ x, i = .setSoundTimer x) ∧
    (u.fb ≠ s.fb → i = .clearScreen ∨ ∃ x y n, i = .drawSprite x y n) := by
  cases i
  case ret => obtain ⟨a, rest, -, rfl, rfl⟩ := execute_ret_ok h; simp
  case waitForKey => obtain ⟨k, -, rfl, rfl⟩ | ⟨-, rfl, rfl⟩ := execute_waitForKey_ok h <;> simp
  case call | storeBCD | storeRegisters | loadRegisters | drawSprite =>
    simp only [execute_call, execute_storeBCD, execute_storeRegisters, execute_loadRegisters, execute_drawSprite] at h
    split at h <;> cases h
    simp
  case executeMachineCode => cases h
  all_goals cases h; simp

/-- Settles O49: the directive changes nothing but pc; memory, the stack and the keypad each have their own lemma. -/
theorem stateIsWrittenOnlyByItsInstructions : Obligations.StateIsWrittenOnlyByItsInstructions := by
  intro i s t h
  obtain ⟨u, f, hu, rfl⟩ := exec_next h
  obtain ⟨hindex, hdt, hst, hfb⟩ := execute_writes hu
  obtain ⟨-, hkey, hjp⟩ := execute_keeps hu
  have hmem : u.mem ≠ s.mem → (∃ x, i = .storeBCD x) ∨ ∃ x, i = .storeRegisters x :=
    fun hne => ((execute_mem hu).resolve_left hne).1
  have hstack : u.stack ≠ s.stack → (∃ nnn, i = .call nnn) ∨ i = .ret := fun hne =>
    ((execute_stack hu).resolve_left hne).imp (fun ⟨nnn, hi, _⟩ => ⟨nnn, hi⟩) And.left
  simp only [SameKeys, State.follow_index, State.follow_mem, State.follow_stack, State.follow_dt, State.follow_st,
    State.follow_fb, State.follow_key, State.follow_jp]
  exact ⟨hindex, hmem, hstack, hdt, hst, hfb, hkey, hjp⟩

/-! ### The draw counter -/

/-- An instruction other than CXNN neither reads nor writes the draw counter (R221, decision D23). -/
theorem execute_ok_of_draws {i : Instr} {s u : State} {f : Flow} (h : execute i s = .ok (u, f))
    (hi : ∀ x nn, i ≠ .random x nn) (k : Nat) :
    execute i { s with draws := k } = .ok ({ u with draws := k }, f) := by
  cases i
  case random x nn => exact absurd rfl (hi x nn)
  case ret =>
    obtain ⟨a, rest, hs, rfl, rfl⟩ := execute_ret_ok h
    exact execute_ret_cons (s := { s with draws := k }) hs
  case waitForKey x =>
    obtain ⟨j, hj, rfl, rfl⟩ | ⟨hnone, rfl, rfl⟩ := execute_waitForKey_ok h
    · exact execute_waitForKey_some (s := { s with draws := k }) hj x
    · exact execute_waitForKey_none (s := { u with draws := k }) hnone x
  case call | storeBCD | storeRegisters | loadRegisters | drawSprite =>
    simp only [execute_call, execute_storeBCD, execute_storeRegisters, execute_loadRegisters,
      execute_drawSprite] at h ⊢
    split at h <;> cases h
    exact if_pos ‹_›
  case executeMachineCode => cases h
  all_goals cases h; rfl

theorem follow_of_draws (s : State) (f : Flow) (k : Nat) :
    State.follow { s with draws := k } f = { s.follow f with draws := k } := by
  cases f <;> rfl

/-- Settles O41: an instruction that stops does so whatever the counter, since its own check does not read it; one that
completes carries the counter along. -/
theorem onlyRandomDependsOnTheDraw : Obligations.OnlyRandomDependsOnTheDraw := by
  intro i s k hi
  rw [exec_eq_finish, exec_eq_finish]
  rcases he : execute i s with f | ⟨u, f⟩
  · have hown : execute i { s with draws := k } = .error f :=
      execute_eq_error_iff.2 (execute_eq_error_iff.1 he :)
    rw [hown]
    rfl
  · rw [execute_ok_of_draws he hi k, finish_ok, finish_ok, follow_of_draws]
    rfl

end Sys2Proof.Machine
end

section
/-! PROOFS. Memory and the instructions that move blocks of bytes (20_memory.md, 43_index_memory.md), and load_program
(60_exceptions.md R272). -/

namespace Sys2Proof.Machine

/-! ### A block, read and written -/

theorem Memory.read_writeBytes_inside (m : Memory) (a : Nat) {bs : List Byte} {i : Nat} (h : i < bs.length) :
    (m.writeBytes a bs).read (a + i) = bs[i] := by
  rw [Memory.read_writeBytes, if_neg (Nat.not_lt.2 (Nat.le_add_right a i)), Nat.add_sub_cancel_left,
    List.getElem?_eq_getElem h, Option.getD_some]

theorem Memory.read_writeBytes_outside (m : Memory) {a : Nat} {bs : List Byte} {a' : Nat}
    (h : a' < a ∨ a + bs.length ≤ a') : (m.writeBytes a bs).read a' = m.read a' := by
  rw [Memory.read_writeBytes]
  rcases h with h | h
  · rw [if_pos h]
  · rw [List.getElem?_eq_none (by omega), Option.getD_none, ite_self]

/-- The byte of V[r] in the block that FX55 stores (R205). -/
theorem Memory.read_writeBytes_regsUpTo (m : Memory) (a : Nat) (s : State) {x r : Reg} (h : r ≤ x) :
    (m.writeBytes a (regsUpTo s x)).read (a + r.val) = s.readReg r := by
  have hlt : r.val < (regsUpTo s x).length := by rw [length_regsUpTo]; exact Nat.lt_succ_of_le h
  rw [Memory.read_writeBytes_inside m a hlt]
  exact Option.some.inj ((List.getElem?_eq_getElem hlt).symm.trans (getElem?_regsUpTo s x r h))

/-- I moved past a block that fits does not wrap (R207). -/
theorem indexPast_toNat_of_le {s : State} {x : Reg} (h : s.index.toNat + x.val + 1 ≤ 4096) :
    (indexPast s x).toNat = s.index.toNat + x.val + 1 := by
  rw [indexPast_toNat]
  omega

/-! ### FX33 -/

/-- Settles O34: a block of three digits written at I, which the check has found to fit. -/
theorem storeBcdWritesThreeDigits : Obligations.StoreBcdWritesThreeDigits := by
  refine ⟨fun x s hfit => ?_, fun x s hpast => ?_⟩
  · have hdone := exec_of_done ((execute_storeBCD x s).trans (if_pos hfit))
    have hin (i : Nat) (hi : i < (bcdDigits (s.readReg x)).length) :=
      Memory.read_writeBytes_inside s.mem s.index.toNat hi
    refine ⟨_, hdone, ?_, ?_, ?_, fun a ha => ?_, rfl, onlyMemIndex_update s _ _ _, rfl⟩
    all_goals rw [State.follow_mem]
    · exact (congrArg BitVec.toNat (hin 0 (by simp))).trans (by simp [bcdDigits])
    · exact (congrArg BitVec.toNat (hin 1 (by simp))).trans (by simp [bcdDigits])
    · exact (congrArg BitVec.toNat (hin 2 (by simp))).trans (by simp [bcdDigits])
    · exact Memory.read_writeBytes_outside s.mem ha
  · exact exec_of_raise ((execute_storeBCD x s).trans (if_neg (Nat.not_le.2 hpast)))

/-! ### FX55 and FX65 -/

/-- Settles O35: the block V[0] to V[X] written at I, which the check has found to fit. -/
theorem storeRegistersWritesBlock : Obligations.StoreRegistersWritesBlock := by
  refine ⟨fun x s hfit => ?_, fun x s hpast => ?_⟩
  · have hdone := exec_of_done ((execute_storeRegisters x s).trans (if_pos hfit))
    refine ⟨_, hdone, fun r hr => ?_, fun a ha => ?_, ?_, onlyMemIndex_update s _ _ _, rfl⟩
    · rw [State.follow_mem]
      exact Memory.read_writeBytes_regsUpTo s.mem s.index.toNat s hr
    · rw [State.follow_mem]
      exact Memory.read_writeBytes_outside s.mem (by rwa [length_regsUpTo])
    · rw [State.follow_index]
      exact indexPast_toNat_of_le hfit
  · exact exec_of_raise ((execute_storeRegisters x s).trans (if_neg (Nat.not_le.2 hpast)))

/-- The registers after a block load: those up to `x` hold the bytes at `a` on, the others what they held (R206). -/
theorem getElem_loadRegsFrom_readBytes (v : Vector Byte 16) (m : Memory) (a : Nat) (x r : Reg) :
    (loadRegsFrom v 0 (m.readBytes a (x.val + 1)))[r] = if r ≤ x then m.read (a + r.val) else v[r] := by
  rw [getElem_loadRegsFrom, if_neg (Nat.not_lt_zero _), Nat.sub_zero]
  by_cases hr : r.val < (m.readBytes a (x.val + 1)).length
  · have hle : r ≤ x := by simpa [Nat.lt_succ_iff] using hr
    rw [List.getElem?_eq_getElem hr, Option.getD_some, Memory.getElem_readBytes, if_pos hle]
  · have hle : ¬ r ≤ x := by simpa [Nat.lt_succ_iff] using hr
    rw [List.getElem?_eq_none (Nat.le_of_not_lt hr), Option.getD_none, if_neg hle]

/-- Settles O36: the block at I read into V[0] to V[X], which the check has found to fit. -/
theorem loadRegistersReadsBlock : Obligations.LoadRegistersReadsBlock := by
  refine ⟨fun x s hfit => ?_, fun x s hpast => ?_⟩
  · have hdone := exec_of_done ((execute_loadRegisters x s).trans (if_pos hfit))
    refine ⟨_, hdone, fun r hr => ?_, fun r hr => ?_, ?_, ⟨rfl, rfl⟩, rfl, fun _ => rfl, ⟨rfl, rfl⟩, fun _ _ => rfl,
      rfl, rfl⟩
    · rw [State.readReg_follow, State.readReg, getElem_loadRegsFrom_readBytes, if_pos hr]
    · rw [State.readReg_follow, State.readReg, getElem_loadRegsFrom_readBytes, if_neg (not_le.2 hr)]
      rfl
    · rw [State.follow_index]
      exact indexPast_toNat_of_le hfit
  · exact exec_of_raise ((execute_loadRegisters x s).trans (if_neg (Nat.not_le.2 hpast)))

/-- What an FX55 that completes has found and done (R205). -/
theorem exec_storeRegisters_next {x : Reg} {s t : State} (h : exec (.storeRegisters x) s = .next t) :
    s.index.toNat + x.val + 1 ≤ 4096 ∧
      t = { s with
        mem := s.mem.writeBytes s.index.toNat (regsUpTo s x), index := indexPast s x, pc := s.pc + instrSize } := by
  obtain ⟨u, f, hu, rfl⟩ := exec_next h
  rw [execute_storeRegisters] at hu
  split at hu <;> cases hu
  exact ⟨‹_›, rfl⟩

/-- Settles O37: the block just stored fits, so it loads, and it reads as the registers stored. -/
theorem loadAfterStoreRestoresRegisters : Obligations.LoadAfterStoreRestoresRegisters := by
  intro x s t h v p
  obtain ⟨hfit, rfl⟩ := exec_storeRegisters_next h
  obtain ⟨u, hu, hread, -⟩ := loadRegistersReadsBlock.1 x
    { s with v := v, pc := p, mem := s.mem.writeBytes s.index.toNat (regsUpTo s x) } hfit
  exact ⟨u, hu, fun r hr => (hread r hr).trans (Memory.read_writeBytes_regsUpTo s.mem s.index.toNat s hr)⟩

/-- Settles O38: the next pc is I, where the block that was stored begins with V[0] and V[1]. -/
theorem storeIsSeenByTheNextFetch : Obligations.StoreIsSeenByTheNextFetch := by
  intro x s t hx hnext h
  obtain ⟨hfit, rfl⟩ := exec_storeRegisters_next h
  have hx1 : 1 ≤ x.val := hx
  have hpc : (s.pc + instrSize).toNat = s.index.toNat := congrArg BitVec.toNat hnext.symm
  have hV0 := Memory.read_writeBytes_regsUpTo s.mem s.index.toNat s (Fin.zero_le x)
  have hV1 := Memory.read_writeBytes_regsUpTo s.mem s.index.toNat s hx
  rw [fetch_eq]
  simp only [hpc]
  rw [if_pos (by simp only [Config.memSize]; omega)]
  exact congrArg Except.ok (congrArg₂ nibblesOf hV0 hV1)

/-! ### load_program -/

/-- Settles O54: one block written at 0x200. -/
theorem loadProgramCopiesBytes : Obligations.LoadProgramCopiesBytes := by
  refine ⟨fun bytes s hfit => ?_, fun bytes s hlong => if_neg (Nat.not_le.2 hlong)⟩
  exact ⟨s.mem.writeBytes Config.programBase bytes, if_pos hfit,
    fun i hi => Memory.read_writeBytes_inside s.mem Config.programBase hi,
    fun a ha => Memory.read_writeBytes_outside s.mem ha⟩

/-! ### The canonical form -/

/-- An address below every listed one reads as after construction. -/
theorem Memory.read_of_lt {m : Memory} {a : Nat} (h : ∀ c ∈ m, a < c.1) : m.read a = initialByte a := by
  induction m with
  | nil => rfl
  | cons c cs ih =>
    obtain ⟨hc, hcs⟩ := List.forall_mem_cons.1 h
    rw [Memory.read_cons, if_neg (Nat.ne_of_gt hc), ih hcs]

theorem Memory.wf_cons {c : Host.Cell} {cs : Memory} (h : Memory.wf (c :: cs)) :
    Memory.wf cs ∧ (∀ d ∈ cs, c.1 < d.1) ∧ c.2 ≠ initialByte c.1 := by
  obtain ⟨hrise, hcells⟩ := h
  obtain ⟨hlow, hrise⟩ := List.pairwise_cons.1 hrise
  obtain ⟨hc, hcells⟩ := List.forall_mem_cons.1 hcells
  exact ⟨⟨hrise, hcells⟩, hlow, hc.2⟩

/-- The first listed address is the least that does not read as after construction, so it is known from the reads. -/
theorem Memory.head_le_of_read {c d : Host.Cell} {cs ds : Memory} (hc : Memory.wf (c :: cs)) (hd : Memory.wf (d :: ds))
    (h : ∀ a, Memory.read (c :: cs) a = Memory.read (d :: ds) a) : d.1 ≤ c.1 := by
  by_contra hlt
  obtain ⟨-, -, hne⟩ := Memory.wf_cons hc
  obtain ⟨-, hlow, -⟩ := Memory.wf_cons hd
  have hunlisted : Memory.read (d :: ds) c.1 = initialByte c.1 := Memory.read_of_lt
    (List.forall_mem_cons.2 ⟨Nat.lt_of_not_le hlt, fun e he => (Nat.lt_of_not_le hlt).trans (hlow e he)⟩)
  rw [← h, Memory.read_cons, if_pos rfl] at hunlisted
  exact hne hunlisted

/-- With equal first cells, memories that read alike have rests that read alike: at the first address both rests read
as after construction. -/
theorem Memory.read_tail {c : Host.Cell} {cs ds : Memory} (hcs : ∀ e ∈ cs, c.1 < e.1) (hds : ∀ e ∈ ds, c.1 < e.1)
    (h : ∀ a, Memory.read (c :: cs) a = Memory.read (c :: ds) a) (a : Nat) : cs.read a = ds.read a := by
  by_cases ha : c.1 = a
  · subst ha
    rw [Memory.read_of_lt hcs, Memory.read_of_lt hds]
  · simpa only [Memory.read_cons, if_neg ha] using h a

theorem Memory.read_head (c : Host.Cell) (cs : Memory) : Memory.read (c :: cs) c.1 = c.2 := by
  rw [Memory.read_cons, if_pos rfl]

/-- A memory that lists a cell does not read everywhere as after construction. -/
theorem Memory.read_cons_ne_nil {c : Host.Cell} {cs : Memory} (hc : Memory.wf (c :: cs)) :
    Memory.read (c :: cs) c.1 ≠ Memory.read [] c.1 := by
  rw [Memory.read_head]
  exact (Memory.wf_cons hc).2.2

/-- Settles O39, by induction on both lists: the first cells agree, and so do the rests. -/
theorem canonicalMemoryIsUnique : Obligations.CanonicalMemoryIsUnique := by
  intro m
  induction m with
  | nil =>
    rintro (_ | ⟨d, ds⟩) - hd h
    · rfl
    · exact absurd (h d.1).symm (Memory.read_cons_ne_nil hd)
  | cons c cs ih =>
    rintro (_ | ⟨d, ds⟩) hc hd h
    · exact absurd (h c.1) (Memory.read_cons_ne_nil hc)
    · have haddr : c.1 = d.1 :=
        Nat.le_antisymm (Memory.head_le_of_read hd hc fun a => (h a).symm) (Memory.head_le_of_read hc hd h)
      have hbyte : c.2 = d.2 := by rw [← Memory.read_head c cs, h, haddr, Memory.read_head]
      obtain rfl : c = d := Prod.ext haddr hbyte
      obtain ⟨hcs, hclow, -⟩ := Memory.wf_cons hc
      obtain ⟨hds, hdlow, -⟩ := Memory.wf_cons hd
      rw [ih ds hcs hds (Memory.read_tail hclow hdlow h)]

end Sys2Proof.Machine
end

section
/-! PROOFS. The sprite compositor and the display instructions (45_display.md R240 to R244). -/

namespace Sys2Proof.Machine

/-! ### Toggling a set of pixels -/

/-- From `a` to `b` each pixel of `p` was toggled once, no other was, and a collision was added exactly when one of them
was set: what drawing any part of a sprite amounts to (R242). -/
structure Toggles (a b : Screen × Bool) (p : Fin 32 → Fin 64 → Bool) : Prop where
  pixel : ∀ y x, b.1.pixel y x = (a.1.pixel y x ^^ p y x)
  hit : b.2 = true ↔ a.2 = true ∨ ∃ y x, a.1.pixel y x = true ∧ p y x = true

theorem Toggles.refl (a : Screen × Bool) : Toggles a a (fun _ _ => false) where
  pixel _ _ := (Bool.xor_false _).symm
  hit := by simp

theorem Toggles.congr {a b : Screen × Bool} {p q : Fin 32 → Fin 64 → Bool} (h : Toggles a b p)
    (hpq : ∀ y x, p y x = q y x) : Toggles a b q := by
  obtain rfl : p = q := funext₂ hpq
  exact h

/-- Two parts that share no pixel: the second finds its pixels as they were before the first. -/
theorem Toggles.trans {a b c : Screen × Bool} {p q : Fin 32 → Fin 64 → Bool} (hab : Toggles a b p)
    (hbc : Toggles b c q) (hdisj : ∀ y x, q y x = true → p y x = false) :
    Toggles a c (fun y x => p y x || q y x) where
  pixel y x := by
    rw [hbc.pixel, hab.pixel]
    cases hq : q y x
    · simp
    · simp [hdisj y x hq]
  hit := by
    have hfound : (∃ y x, b.1.pixel y x = true ∧ q y x = true) ↔ ∃ y x, a.1.pixel y x = true ∧ q y x = true := by
      refine exists_congr fun y => exists_congr fun x => and_congr_left fun hq => ?_
      rw [hab.pixel, hdisj y x hq, Bool.xor_false]
    rw [hbc.hit, hab.hit, hfound, or_assoc]
    simp only [Bool.or_eq_true, and_or_left, exists_or]

/-! ### A bit, a row, the rows -/

theorem drawBit_toggles (row : Byte) (x0 py : Nat) (acc : Screen × Bool) (c : Nat) :
    Toggles acc (drawBit row x0 py acc c)
      (fun y x => decide (py = y.val ∧ x0 + c = x.val) && spriteBit row c) := by
  unfold drawBit
  split
  next hbit =>
    constructor
    · intro y x
      rw [Screen.pixel_toggle, hbit]
      by_cases h : x0 + c = x.val ∧ py = y.val
      · simp [h]
      · have h' : ¬ (py = y.val ∧ x0 + c = x.val) := fun h' => h h'.symm
        simp [h, h']
    · rw [Bool.or_eq_true, Screen.toggle_hit, hbit]
      simp [and_assoc, and_comm]
  next hbit => exact (Toggles.refl acc).congr (by simp [hbit])

/-- The pixels of the first `n` bits of a row drawn at `(x0, py)`. -/
def rowCovers (row : Byte) (x0 py n : Nat) (y : Fin 32) (x : Fin 64) : Bool :=
  decide (py = y.val ∧ x0 ≤ x.val ∧ x.val < x0 + n) && row.getLsbD (7 - (x.val - x0))

theorem foldl_drawBit_toggles (row : Byte) (x0 py n : Nat) (acc : Screen × Bool) :
    Toggles acc ((List.range n).foldl (drawBit row x0 py) acc) (rowCovers row x0 py n) := by
  induction n with
  | zero => exact (Toggles.refl acc).congr fun y x => by simp [rowCovers]
  | succ n ih =>
    rw [List.range_succ, List.foldl_append, List.foldl_cons, List.foldl_nil]
    refine (ih.trans (drawBit_toggles row x0 py _ n) fun y x hq => ?_).congr fun y x => ?_
    · have hpast : ¬ x.val < x0 + n := by simp at hq; omega
      simp [rowCovers, hpast]
    · by_cases hx : x0 + n = x.val
      · simp [rowCovers, spriteBit, ← hx]
      · have hlt : x.val < x0 + (n + 1) ↔ x.val < x0 + n := by omega
        simp [rowCovers, hx, hlt]

/-- A sprite's rows cover what its first row covers and what the others cover one row lower (R243). -/
theorem spriteCovers_cons (row : Byte) (rows : List Byte) (x0 y0 : Nat) (y : Fin 32) (x : Fin 64) :
    spriteCovers (row :: rows) x0 y0 y x = (rowCovers row x0 y0 8 y x || spriteCovers rows x0 (y0 + 1) y x) := by
  unfold spriteCovers rowCovers
  rcases Nat.lt_trichotomy y.val y0 with h | h | h
  · have h1 : ¬ y0 ≤ y.val := Nat.not_le.2 h
    have h2 : ¬ y0 + 1 ≤ y.val := by omega
    simp [h1, h2, Nat.ne_of_gt h]
  · simp [h]
  · have h1 : y.val - y0 = y.val - (y0 + 1) + 1 := by omega
    have h2 : y0 ≤ y.val := Nat.le_of_lt h
    have h3 : y0 + 1 ≤ y.val := h
    simp [h1, h2, h3, Nat.ne_of_lt h]

theorem drawRows_toggles (x0 y0 : Nat) (rows : List Byte) (acc : Screen × Bool) :
    Toggles acc (drawRows x0 y0 rows acc) (spriteCovers rows x0 y0) := by
  induction rows generalizing y0 acc with
  | nil => exact (Toggles.refl acc).congr fun y x => by simp [spriteCovers]
  | cons row rows ih =>
    refine ((foldl_drawBit_toggles row x0 y0 8 acc).trans (ih (y0 + 1) _) fun y x hq => ?_).congr fun y x =>
      (spriteCovers_cons row rows x0 y0 y x).symm
    have : y0 < y.val := by
      simp [spriteCovers] at hq; omega
    simp [rowCovers, Nat.ne_of_lt this]

theorem Screen.pixel_draw (fb : Screen) (x0 y0 : Nat) (rows : List Byte) (y : Fin 32) (x : Fin 64) :
    (fb.draw x0 y0 rows).1.pixel y x = (fb.pixel y x ^^ spriteCovers rows x0 y0 y x) :=
  (drawRows_toggles x0 y0 rows (fb, false)).pixel y x

theorem Screen.draw_hit (fb : Screen) (x0 y0 : Nat) (rows : List Byte) :
    (fb.draw x0 y0 rows).2 = true ↔ ∃ y x, fb.pixel y x = true ∧ spriteCovers rows x0 y0 y x = true := by
  simpa [Screen.draw] using (drawRows_toggles x0 y0 rows (fb, false)).hit

/-- Screens with the same pixels are equal. -/
theorem Screen.ext_pixel {fb fb' : Screen} (h : ∀ y x, fb.pixel y x = fb'.pixel y x) : fb = fb' :=
  Vector.ext fun y hy => Vector.ext fun x hx => h ⟨y, hy⟩ ⟨x, hx⟩

/-- Drawing twice toggles each covered pixel back (R244). -/
theorem Screen.draw_draw (fb : Screen) (x0 y0 : Nat) (rows : List Byte) :
    ((fb.draw x0 y0 rows).1.draw x0 y0 rows).1 = fb :=
  Screen.ext_pixel fun y x => by simp [Screen.pixel_draw]

/-- A second draw finds a covered pixel set where the first found it unset (R244, conflict C2). -/
theorem Screen.draw_draw_hit (fb : Screen) (x0 y0 : Nat) (rows : List Byte) :
    ((fb.draw x0 y0 rows).1.draw x0 y0 rows).2 = true ↔
      ∃ y x, fb.pixel y x = false ∧ spriteCovers rows x0 y0 y x = true := by
  rw [Screen.draw_hit]
  refine exists_congr fun y => exists_congr fun x => and_congr_left fun hcov => ?_
  simp [Screen.pixel_draw, hcov]

/-! ### DXYN -/

/-- The state after a DXYN that completes: the screen drawn, the collision in VF, pc past the instruction (R242). -/
def afterDraw (x y : Reg) (n : Fin 16) (s : State) : State :=
  ({ s with fb := (spriteDrawn x y n s).1 }.writeReg vf (collisionFlag (spriteDrawn x y n s).2)).follow .advance

@[simp] theorem afterDraw_fb (x y : Reg) (n : Fin 16) (s : State) :
    (afterDraw x y n s).fb = (spriteDrawn x y n s).1 := rfl

@[simp] theorem readReg_vf_afterDraw (x y : Reg) (n : Fin 16) (s : State) :
    (afterDraw x y n s).readReg vf = collisionFlag (spriteDrawn x y n s).2 := by
  rw [afterDraw, State.readReg_follow, State.readReg_writeReg_same]

theorem sameRegsBut_afterDraw (x y : Reg) (n : Fin 16) (s : State) : SameRegsBut vf s (afterDraw x y n s) :=
  sameRegsBut_writeReg { s with fb := (spriteDrawn x y n s).1 } vf _ .advance

theorem exec_drawSprite_of_le {x y : Reg} {n : Fin 16} {s : State} (h : s.index.toNat + n.val ≤ 4096) :
    exec (.drawSprite x y n) s = .next (afterDraw x y n s) :=
  exec_of_done ((execute_drawSprite x y n s).trans (if_pos h))

theorem exec_drawSprite_of_lt {x y : Reg} {n : Fin 16} {s : State} (h : 4096 < s.index.toNat + n.val) :
    exec (.drawSprite x y n) s = .fault .outOfBoundRange :=
  exec_of_raise ((execute_drawSprite x y n s).trans (if_neg (Nat.not_le.2 h)))

theorem exec_drawSprite_next {x y : Reg} {n : Fin 16} {s t : State} (h : exec (.drawSprite x y n) s = .next t) :
    s.index.toNat + n.val ≤ 4096 ∧ t = afterDraw x y n s := by
  rcases Nat.lt_or_ge 4096 (s.index.toNat + n.val) with hpast | hfit
  · rw [exec_drawSprite_of_lt hpast] at h; cases h
  · rw [exec_drawSprite_of_le hfit] at h; cases h; exact ⟨hfit, rfl⟩

theorem collisionFlag_eq_one_iff (hit : Bool) : collisionFlag hit = 0x01#8 ↔ hit = true := by
  cases hit <;> decide

/-- Settles O47: the compositor toggles what the sprite covers and reports a set pixel among it; VF takes the report. -/
theorem drawSpriteTogglesCoveredPixels : Obligations.DrawSpriteTogglesCoveredPixels := by
  refine ⟨fun x y n s hfit => ⟨afterDraw x y n s, exec_drawSprite_of_le hfit, fun py px => ?_, ?_, ?_,
    sameRegsBut_afterDraw x y n s, onlyScreenRegs_update s _ _ _, rfl⟩, fun x y n s => exec_drawSprite_of_lt⟩
  · rw [afterDraw_fb, spriteDrawn, Screen.pixel_draw]
  · rw [readReg_vf_afterDraw, collisionFlag_eq_one_iff, spriteDrawn, Screen.draw_hit]
  · rw [readReg_vf_afterDraw]
    exact collisionFlag_eq _

/-- Settles O48: the first clause is the compositor's; in the other two, a draw has left memory and I as they were and
moved no register but VF, so the second draws the same rows. -/
theorem drawingTwiceRestoresTheScreen : Obligations.DrawingTwiceRestoresTheScreen := by
  refine ⟨fun fb x0 y0 rows => ⟨fb.draw_draw x0 y0 rows, fb.draw_hit x0 y0 rows, fb.draw_draw_hit x0 y0 rows⟩,
    fun x y n s t hx hy h => ?_, fun x y n s t h => ?_⟩
  · obtain ⟨hfit, rfl⟩ := exec_drawSprite_next h
    have hsame : spriteDrawn x y n (afterDraw x y n s) = (spriteDrawn x y n s).1.draw (s.readReg x).toNat
        (s.readReg y).toNat (s.mem.readBytes s.index.toNat n.val) := by
      rw [spriteDrawn, sameRegsBut_afterDraw x y n s x hx, sameRegsBut_afterDraw x y n s y hy]
      rfl
    refine ⟨_, exec_drawSprite_of_le hfit, ?_, ?_⟩
    · rw [afterDraw_fb, hsame, spriteDrawn, Screen.draw_draw]
    · rw [readReg_vf_afterDraw, collisionFlag_eq_one_iff, hsame, spriteDrawn, Screen.draw_draw_hit]
  · obtain ⟨hfit, rfl⟩ := exec_drawSprite_next h
    refine ⟨_, exec_drawSprite_of_le hfit, fun py px => ?_⟩
    rw [afterDraw_fb, spriteDrawn, Screen.pixel_draw, afterDraw_fb, spriteDrawn, Screen.pixel_draw, Bool.xor_assoc]
    rfl

/-! ### 00E0 -/

/-- Settles O46: the effect is the blank screen and Advance. -/
theorem clearScreenUnsetsEveryPixel : Obligations.ClearScreenUnsetsEveryPixel :=
  fun s => ⟨_, rfl, Screen.pixel_blank, fun _ => rfl, onlyScreenRegs_update s _ _ _, rfl⟩

end Sys2Proof.Machine
end

section
/-! PROOFS. Control flow and skips, instruction by instruction (40_flow.md, 41_skip.md). -/

namespace Sys2Proof.Machine

/-! ### Return and Call -/

/-- Settles O14: the effect of Return on a stack with an entry, and on an empty one. -/
theorem returnGoesToThePoppedAddress : Obligations.ReturnGoesToThePoppedAddress :=
  ⟨rfl, fun s a rest hs => ⟨_, exec_of_done (execute_ret_cons hs), rfl, rfl, onlyStack_update s rest a⟩,
    fun _ hs => exec_of_raise (execute_ret_nil hs)⟩

theorem exec_call_of_lt {s : State} (h : s.depth < 12) (nnn : Addr12) :
    exec (.call nnn) s = .next { s with stack := (s.pc + instrSize) :: s.stack, pc := addressOf nnn } :=
  exec_of_done ((execute_call nnn s).trans (if_pos h))

/-- Settles O15: the effect of Call with room for an entry, and with none. -/
theorem callPushesTheReturnAddress : Obligations.CallPushesTheReturnAddress :=
  ⟨fun _ _ _ => rfl,
    fun nnn s hroom => ⟨_, exec_call_of_lt hroom nnn, addressOf_toNat nnn, rfl, onlyStack_update s _ _⟩,
    fun nnn s hfull => exec_of_raise ((execute_call nnn s).trans (if_neg (Nat.not_lt.2 hfull)))⟩

/-- Settles O16: the Return pops what the Call pushed. -/
theorem returnAfterCallComesBack : Obligations.ReturnAfterCallComesBack :=
  fun nnn _ hroom => ⟨_, exec_call_of_lt hroom nnn, exec_of_done (execute_ret_cons rfl)⟩

/-! ### Jumps -/

/-- An instruction whose effect is a jump and nothing else completes at its target and changes nothing but pc (R26). -/
theorem exec_jumps_of_execute {i : Instr} {s : State} {a : Word} (h : execute i s = done s (.goTo a)) :
    ∃ t, exec i s = .next t ∧ t.pc = a ∧ OnlyPc s t :=
  ⟨_, exec_of_done h, rfl, onlyPc_update s a⟩

theorem execute_jump (nnn : Addr12) (s : State) : execute (.jump nnn) s = done s (.goTo (addressOf nnn)) := rfl

theorem execute_jumpWithOffset (nnn : Addr12) (s : State) :
    execute (.jumpWithOffset nnn) s = done s (.goTo (addressOf nnn + promote (s.readReg 0))) := rfl

/-- Settles O18: both effects are jumps, to NNN and to a sum that 16 bits hold. -/
theorem jumpsGoToTheirTargets : Obligations.JumpsGoToTheirTargets := by
  refine ⟨fun nnn s => ?_, fun nnn s => ?_⟩
  · obtain ⟨t, ht, hpc, hrest⟩ := exec_jumps_of_execute (execute_jump nnn s)
    exact ⟨t, ht, hpc ▸ addressOf_toNat nnn, hrest⟩
  · obtain ⟨t, ht, hpc, hrest⟩ := exec_jumps_of_execute (execute_jumpWithOffset nnn s)
    exact ⟨t, ht, hpc ▸ jumpTarget_toNat nnn _, hrest⟩

/-! ### Skips -/

theorem execute_skipIfNotEqualValue (x : Reg) (nn : Byte) (s : State) :
    execute (.skipIfNotEqualValue x nn) s = done s (skipIf (decide (s.readReg x ≠ nn))) := by
  simp [execute, effectSkipIfNotEqualValue, bne, Bool.beq_eq_decide_eq]

theorem execute_skipIfEqualRegister (x y : Reg) (s : State) :
    execute (.skipIfEqualRegister x y) s = done s (skipIf (decide (s.readReg x = s.readReg y))) := rfl

theorem execute_skipIfNotEqualRegister (x y : Reg) (s : State) :
    execute (.skipIfNotEqualRegister x y) s = done s (skipIf (decide (s.readReg x ≠ s.readReg y))) := by
  simp [execute, effectSkipIfNotEqualRegister, bne, Bool.beq_eq_decide_eq]

/-- Settles O20: each effect is a skip on its condition. -/
theorem otherSkipsCompareRegisters : Obligations.OtherSkipsCompareRegisters :=
  ⟨fun x nn s => exec_skips_of_execute (execute_skipIfNotEqualValue x nn s),
    fun x y s => exec_skips_of_execute (execute_skipIfEqualRegister x y s),
    fun x y s => exec_skips_of_execute (execute_skipIfNotEqualRegister x y s)⟩

/-- EX9E reads the steady state of the key named by the low nibble of V[X] (R225, R228). -/
theorem execute_skipIfKeyPressed {x : Reg} {s : State} {k : Key} (hk : k.val = (s.readReg x).toNat % 16) :
    execute (.skipIfKeyPressed x) s = done s (skipIf s.key[k]) := by
  obtain rfl : k = ⟨(s.readReg x).toNat % 16, Nat.mod_lt _ (by decide)⟩ := Fin.ext hk
  rw [← keyHeld_eq]
  rfl

/-- EXA1 skips on the opposite condition (R226). -/
theorem execute_skipIfKeyNotPressed {x : Reg} {s : State} {k : Key} (hk : k.val = (s.readReg x).toNat % 16) :
    execute (.skipIfKeyNotPressed x) s = done s (skipIf (!s.key[k])) := by
  obtain rfl : k = ⟨(s.readReg x).toNat % 16, Nat.mod_lt _ (by decide)⟩ := Fin.ext hk
  rw [← keyHeld_eq]
  rfl

/-- Settles O43: both effects are skips on the state of one key. -/
theorem keySkipsReadTheSteadyState : Obligations.KeySkipsReadTheSteadyState :=
  fun _ _ _ hk => ⟨exec_skips_of_execute (execute_skipIfKeyPressed hk),
    exec_skips_of_execute (execute_skipIfKeyNotPressed hk)⟩

end Sys2Proof.Machine
end

section
/-! PROOFS. Arithmetic, registers, I and the timers, instruction by instruction (42_alu.md, 43_index_memory.md,
44_random_timer_keypad.md). -/

namespace Sys2Proof.Machine

/-! ### One register written -/

theorem execute_addValue (x : Reg) (nn : Byte) (s : State) :
    execute (.addValue x nn) s = done (s.writeReg x (s.readReg x + nn)) .advance := rfl

theorem execute_storeRegister (x y : Reg) (s : State) :
    execute (.storeRegister x y) s = done (s.writeReg x (s.readReg y)) .advance := rfl

theorem execute_orRegister (x y : Reg) (s : State) :
    execute (.orRegister x y) s = done (s.writeReg x (s.readReg x ||| s.readReg y)) .advance := rfl

theorem execute_andRegister (x y : Reg) (s : State) :
    execute (.andRegister x y) s = done (s.writeReg x (s.readReg x &&& s.readReg y)) .advance := rfl

theorem execute_xorRegister (x y : Reg) (s : State) :
    execute (.xorRegister x y) s = done (s.writeReg x (s.readReg x ^^^ s.readReg y)) .advance := rfl

theorem execute_loadDelayTimer (x : Reg) (s : State) :
    execute (.loadDelayTimer x) s = done (s.writeReg x s.dt) .advance := rfl

/-- Settles O22: one register write, of the sum that 8 bits hold. -/
theorem addValueWrapsWithoutFlag : Obligations.AddValueWrapsWithoutFlag := by
  intro x nn s
  obtain ⟨t, ht, hx, hrest⟩ := exec_writesReg_of_execute (execute_addValue x nn s)
  exact ⟨t, ht, hx ▸ BitVec.toNat_add _ _, hrest⟩

/-- Settles O23: one register write, of the source. -/
theorem storeRegisterCopiesSource : Obligations.StoreRegisterCopiesSource :=
  ⟨fun _ _ => rfl, fun x y s => exec_writesReg_of_execute (execute_storeRegister x y s)⟩

/-- Settles O24: one register write each, of the bitwise operation. -/
theorem logicIsBitwiseWithoutFlag : Obligations.LogicIsBitwiseWithoutFlag := by
  refine ⟨fun x y s => ?_, fun x y s => ?_, fun x y s => ?_⟩
  · obtain ⟨t, ht, hx, hrest⟩ := exec_writesReg_of_execute (execute_orRegister x y s)
    exact ⟨t, ht, fun k => hx ▸ BitVec.getLsbD_or, hrest⟩
  · obtain ⟨t, ht, hx, hrest⟩ := exec_writesReg_of_execute (execute_andRegister x y s)
    exact ⟨t, ht, fun k => hx ▸ BitVec.getLsbD_and, hrest⟩
  · obtain ⟨t, ht, hx, hrest⟩ := exec_writesReg_of_execute (execute_xorRegister x y s)
    exact ⟨t, ht, fun k => hx ▸ BitVec.getLsbD_xor, hrest⟩

/-- CXNN for a given draw: the masked byte in V[X] (R221). -/
theorem getLsbD_readReg_random (s : State) (x : Reg) (r nn : Byte) (k : Nat) :
    ((s.writeReg x (r &&& nn)).readReg x).getLsbD k = (r.getLsbD k && nn.getLsbD k) := by
  rw [State.readReg_writeReg_same, BitVec.getLsbD_and]

/-- Settles O40: the effect writes the masked draw to V[X] and counts the draw. -/
theorem randomMasksTheDraw : Obligations.RandomMasksTheDraw :=
  ⟨fun x nn s => ⟨_, rfl, getLsbD_readReg_random s x _ nn, rfl, sameRegsBut_writeReg s x _ .advance, rfl, ⟨rfl, rfl⟩,
      rfl, fun _ => rfl, ⟨rfl, rfl⟩, fun _ _ => rfl, rfl⟩,
    fun r x nn s => ⟨_, rfl, getLsbD_readReg_random s x r nn, sameRegsBut_writeReg s x (r &&& nn) .advance⟩⟩

/-- Settles O45: the least edge is what the search answers, and no edge is no answer. -/
theorem waitForKeyTakesTheLeastEdge : Obligations.WaitForKeyTakesTheLeastEdge := by
  refine ⟨fun x s k hk hlow => ?_, fun x s hnone => ?_⟩
  · have hfound := justPressed_eq_some_iff.2 ⟨hk, hlow⟩
    obtain ⟨t, ht, hx, hrest⟩ := exec_writesReg_of_execute (execute_waitForKey_some hfound x)
    have hnum : (keyByte k).toNat = k.val := by
      rw [keyByte, BitVec.toNat_ofNat]
      omega
    exact ⟨t, ht, hx ▸ hnum, hrest⟩
  · rw [exec_of_done (execute_waitForKey_none (justPressed_none.2 hnone) x), State.follow_wait]

/-! ### A result and a flag -/

/-- An instruction whose effect is a result and a flag and Advance: the flag is in VF in any case, the result in V[X]
unless that is VF, and nothing else changes (R21, R170). -/
theorem exec_writesResultFlag_of_execute {i : Instr} {s : State} {x : Reg} {b c : Byte}
    (h : execute i s = done (s.writeResultFlag x b c) .advance) :
    ∃ t, exec i s = .next t ∧ (x ≠ vf → t.readReg x = b) ∧ t.readReg vf = c ∧ SameRegsButFlag x s t ∧ OnlyRegs s t ∧
      Advances s t := by
  refine ⟨_, exec_of_done h, fun hx => ?_, ?_, sameRegsButFlag_writeResultFlag s x b c .advance,
    onlyRegs_update s _ _, rfl⟩
  · rw [State.readReg_follow, State.readReg_writeResultFlag, if_neg hx, if_pos rfl]
  · rw [State.readReg_follow, readReg_vf_writeResultFlag]

theorem execute_addRegister (x y : Reg) (s : State) :
    execute (.addRegister x y) s =
      done (s.writeResultFlag x (s.readReg x + s.readReg y) (carryFlag (s.readReg x) (s.readReg y))) .advance := rfl

theorem execute_subRegister (x y : Reg) (s : State) :
    execute (.subRegister x y) s =
      done (s.writeResultFlag x (s.readReg x - s.readReg y) (noBorrowFlag (s.readReg x) (s.readReg y))) .advance := rfl

theorem execute_subRegisterReversed (x y : Reg) (s : State) :
    execute (.subRegisterReversed x y) s =
      done (s.writeResultFlag x (s.readReg y - s.readReg x) (noBorrowFlag (s.readReg y) (s.readReg x))) .advance := rfl

theorem execute_shiftRight (x y : Reg) (s : State) :
    execute (.shiftRight x y) s =
      done (s.writeResultFlag x (s.readReg y >>> 1) (lowBitFlag (s.readReg y))) .advance := rfl

theorem execute_shiftLeft (x y : Reg) (s : State) :
    execute (.shiftLeft x y) s =
      done (s.writeResultFlag x (s.readReg y <<< 1) (highBitFlag (s.readReg y))) .advance := rfl

/-- The difference of bytes as natural numbers, 256 lent first (R178). -/
theorem byte_toNat_sub (a b : Byte) : (a - b).toNat = (a.toNat + 256 - b.toNat) % 256 := by
  bv_omega

theorem lowBitFlag_eq_ite (b : Byte) : lowBitFlag b = if b.toNat % 2 = 1 then 0x01#8 else 0x00#8 := by
  revert b; decide

theorem highBitFlag_eq_ite (b : Byte) : highBitFlag b = if 128 ≤ b.toNat then 0x80#8 else 0x00#8 := by
  revert b; decide

theorem byte_toNat_shiftRight_one (b : Byte) : (b >>> 1).toNat = b.toNat / 2 := by
  rw [BitVec.toNat_ushiftRight, Nat.shiftRight_eq_div_pow]

theorem byte_toNat_shiftLeft_one (b : Byte) : (b <<< 1).toNat = 2 * b.toNat % 256 := by
  rw [BitVec.toNat_shiftLeft, Nat.shiftLeft_eq, Nat.mul_comm]

/-- Settles O25: the sum that 8 bits hold, and the carry. -/
theorem addRegisterSumThenCarry : Obligations.AddRegisterSumThenCarry := by
  refine ⟨fun _ _ => rfl, fun x y s => ?_⟩
  obtain ⟨t, ht, hx, hvf, hrest⟩ := exec_writesResultFlag_of_execute (execute_addRegister x y s)
  exact ⟨t, ht, fun hne => hx hne ▸ BitVec.toNat_add _ _, hvf.trans (carryFlag_eq _ _), hrest⟩

/-- Settles O26: the difference that 8 bits hold, and no-borrow. -/
theorem subRegisterDifferenceThenNoBorrow : Obligations.SubRegisterDifferenceThenNoBorrow := by
  refine ⟨fun _ _ => rfl, fun x y s => ?_⟩
  obtain ⟨t, ht, hx, hvf, hrest⟩ := exec_writesResultFlag_of_execute (execute_subRegister x y s)
  exact ⟨t, ht, fun hne => hx hne ▸ byte_toNat_sub _ _, hvf, hrest⟩

/-- Settles O27: half the source, and its low bit. -/
theorem shiftRightHalvesTheSource : Obligations.ShiftRightHalvesTheSource := by
  refine ⟨fun _ _ => rfl, fun x y s => ?_⟩
  obtain ⟨t, ht, hx, hvf, hrest⟩ := exec_writesResultFlag_of_execute (execute_shiftRight x y s)
  exact ⟨t, ht, fun hne => hx hne ▸ byte_toNat_shiftRight_one _, hvf.trans (lowBitFlag_eq_ite _), hrest⟩

/-- Settles O28: the difference the other way round, and its no-borrow. -/
theorem subReversedDifferenceThenNoBorrow : Obligations.SubReversedDifferenceThenNoBorrow := by
  intro x y s
  obtain ⟨t, ht, hx, hvf, hrest⟩ := exec_writesResultFlag_of_execute (execute_subRegisterReversed x y s)
  exact ⟨t, ht, fun hne => hx hne ▸ byte_toNat_sub _ _, hvf, hrest⟩

/-- Settles O29: twice the source modulo 256, and its high bit. -/
theorem shiftLeftDoublesTheSource : Obligations.ShiftLeftDoublesTheSource := by
  refine ⟨fun _ _ => rfl, fun x y s => ?_⟩
  obtain ⟨t, ht, hx, hvf, hrest⟩ := exec_writesResultFlag_of_execute (execute_shiftLeft x y s)
  exact ⟨t, ht, fun hne => hx hne ▸ byte_toNat_shiftLeft_one _, hvf.trans (highBitFlag_eq_ite _), hrest⟩

/-! ### I written -/

/-- An instruction whose effect is a new I and Advance changes nothing but I and pc (R26, R200). -/
theorem exec_writesIndex_of_execute {i : Instr} {s : State} {w : Word}
    (h : execute i s = done { s with index := w } .advance) :
    ∃ t, exec i s = .next t ∧ t.index = w ∧ OnlyIndex s t ∧ Advances s t :=
  ⟨_, exec_of_done h, rfl, onlyIndex_update s w _, rfl⟩

theorem execute_storeIndex (nnn : Addr12) (s : State) :
    execute (.storeIndex nnn) s = done { s with index := addressOf nnn } .advance := rfl

theorem execute_addToIndex (x : Reg) (s : State) :
    execute (.addToIndex x) s = done { s with index := s.index + promote (s.readReg x) } .advance := rfl

theorem execute_fontAddress (x : Reg) (s : State) :
    execute (.fontAddress x) s =
      done { s with index := glyphAddress (glyphNumber Config.fontIndexMode (s.readReg x)) } .advance := rfl

/-- The glyph of the low nibble (R64, R203). -/
theorem glyphAddress_toNat (b : Byte) :
    (glyphAddress (glyphNumber Config.fontIndexMode b)).toNat = 5 * (b.toNat % 16) := by
  revert b; decide

/-- Settles O31: I takes NNN. -/
theorem storeIndexSetsIndex : Obligations.StoreIndexSetsIndex := by
  intro nnn s
  obtain ⟨t, ht, hindex, hrest⟩ := exec_writesIndex_of_execute (execute_storeIndex nnn s)
  exact ⟨t, ht, hindex ▸ addressOf_toNat nnn, hrest⟩

/-- Settles O32: I takes the sum that 16 bits hold. -/
theorem addToIndexWrapsAtSixteenBits : Obligations.AddToIndexWrapsAtSixteenBits := by
  intro x s
  obtain ⟨t, ht, hindex, hrest⟩ := exec_writesIndex_of_execute (execute_addToIndex x s)
  exact ⟨t, ht, by rw [hindex, BitVec.toNat_add, promote_toNat], hrest⟩

/-- Settles O33: I takes the address of the glyph. -/
theorem fontAddressPointsAtGlyph : Obligations.FontAddressPointsAtGlyph := by
  intro x s
  obtain ⟨t, ht, hindex, hrest⟩ := exec_writesIndex_of_execute (execute_fontAddress x s)
  exact ⟨t, ht, hindex ▸ glyphAddress_toNat _, hrest⟩

/-! ### The timers -/

/-- An instruction whose effect is new timers and Advance changes nothing but the timers and pc (R26, R29). -/
theorem exec_writesTimers_of_execute {i : Instr} {s : State} {d e : Byte}
    (h : execute i s = done { s with dt := d, st := e } .advance) :
    ∃ t, exec i s = .next t ∧ (t.dt = d ∧ t.st = e) ∧ OnlyTimers s t ∧ Advances s t :=
  ⟨_, exec_of_done h, ⟨rfl, rfl⟩, onlyTimers_update s d e _, rfl⟩

theorem execute_setDelayTimer (x : Reg) (s : State) :
    execute (.setDelayTimer x) s = done { s with dt := s.readReg x, st := s.st } .advance := rfl

theorem execute_setSoundTimer (x : Reg) (s : State) :
    execute (.setSoundTimer x) s = done { s with dt := s.dt, st := s.readReg x } .advance := rfl

/-- Settles O42: FX07 writes one register, FX15 and FX18 one timer each. -/
theorem timerInstructionsMoveBytes : Obligations.TimerInstructionsMoveBytes := by
  refine ⟨fun x s => exec_writesReg_of_execute (execute_loadDelayTimer x s), fun x s => ?_, fun x s => ?_⟩
  · obtain ⟨t, ht, ⟨hdt, hst⟩, hrest⟩ := exec_writesTimers_of_execute (execute_setDelayTimer x s)
    exact ⟨t, ht, hdt, hst, hrest⟩
  · obtain ⟨t, ht, ⟨hdt, hst⟩, hrest⟩ := exec_writesTimers_of_execute (execute_setSoundTimer x s)
    exact ⟨t, ht, hst, hdt, hrest⟩

end Sys2Proof.Machine
end

section
/-! PROOFS. Construction, the driver's operations and the frame (10_state.md section 9, 60_exceptions.md section 5,
70_reset_and_hazards.md section 3). -/

namespace Sys2Proof.Machine

/-! ### Construction -/

/-- Past the font every byte is zero after construction (R41). -/
theorem initialByte_of_le {a : Nat} (h : 0x050 ≤ a) : initialByte a = 0x00#8 := by
  have hlen : Config.fontData.length ≤ a - Config.fontBase := h
  rw [initialByte, List.getElem?_eq_none hlen, Option.getD_none, ite_self]

/-- Settles O50: reset is given field by field, and its memory lists no byte. -/
theorem resetStateAsConstructed : Obligations.ResetStateAsConstructed := by
  refine ⟨rfl, rfl, rfl, rfl, rfl, State.reset_readReg, fun k => ⟨?_, ?_⟩, Screen.pixel_blank, rfl,
    fun a ha => initialByte_of_le ha⟩
  · exact Vector.getElem_replicate _
  · exact Vector.getElem_replicate _

/-! ### The keypad -/

theorem getElem_set_key (v : Vector Bool 16) (k j : Key) (b : Bool) :
    (v.set k b)[j] = if j = k then b else v[j] := by
  simp [Vector.getElem_set, Fin.ext_iff, eq_comm]

theorem press_key (k : Key) (s : State) : (press k s).key = s.key.set k true := rfl

/-- An edge is recorded exactly on a transition from released to pressed (R273). -/
theorem press_jp (k : Key) (s : State) : (press k s).jp = s.jp.set k (s.jp[k] || !s.key[k]) := by
  change (if s.key[k] then s.jp else s.jp.set k true) = _
  cases s.key[k] <;> simp

theorem release_key (k : Key) (s : State) : (release k s).key = s.key.set k false := rfl

theorem keypadReset_jp (s : State) (k : Key) : (keypadReset s).jp[k] = false := Vector.getElem_replicate _

/-- No step changes the edge set (R35, decision D20). -/
theorem step_jp {s t : State} (h : step s = .next t) : t.jp = s.jp := by
  obtain ⟨i, u, f, -, hu, rfl⟩ := step_next h
  rw [State.follow_jp]
  exact (execute_keeps hu).2.2

/-- Settles O55: each operation by what it writes; a step leaves the keypad alone. -/
theorem pressAddsEdgesKeypadResetClearsThem : Obligations.PressAddsEdgesKeypadResetClearsThem := by
  refine ⟨fun k s => ⟨?_, ?_, fun j hj => ⟨?_, ?_⟩, rfl⟩, fun s => ⟨keypadReset_jp s, rfl⟩,
    fun n s t => frameOf_of_tickBatch, fun s t => step_jp⟩
  · rw [press_key, getElem_set_key, if_pos rfl]
  · rw [press_jp, getElem_set_key, if_pos rfl]
  · rw [press_key, getElem_set_key, if_neg hj]
  · rw [press_jp, getElem_set_key, if_neg hj]

/-- Settles O56: release writes one key's steady state and nothing else, so the edge of a press stays. -/
theorem releaseKeepsTheEdge : Obligations.ReleaseKeepsTheEdge := by
  refine ⟨fun k s => ⟨?_, fun j hj => ?_, rfl⟩, fun k s hup => ?_⟩
  · rw [release_key, getElem_set_key, if_pos rfl]
  · rw [release_key, getElem_set_key, if_neg hj]
  · simp only [release_jp, press_jp, getElem_set_key, if_pos, hup, Bool.not_false, Bool.or_true]

/-! ### The frame -/

theorem tickResult_eq_ok_iff {s : State} {d : Flow} : tickResult s = .ok d ↔ tick s = .ok (afterTick s, d) := by
  unfold tickResult afterTick
  rcases tick s with f | ⟨t, d'⟩ <;> simp

theorem tickBatch_of_error {s : State} {f : Fault} (h : tick s = .error f) (n : Nat) :
    tickBatch (n + 1) s = .error (f, s) := by
  rw [tickBatch, h]

theorem tickBatch_of_wait {s t : State} (h : tick s = .ok (t, .wait)) (n : Nat) : tickBatch (n + 1) s = .ok t := by
  rw [tickBatch, h]

theorem tickBatch_of_ne_wait {s t : State} {d : Flow} (h : tick s = .ok (t, d)) (hd : d ≠ .wait) (n : Nat) :
    tickBatch (n + 1) s = tickBatch n t := by
  cases d with
  | wait => exact absurd rfl hd
  | advance | skip | goTo => rw [tickBatch, h]

theorem frameOf_of_tickBatch_error {n : Nat} {s : State} {e : Fault × State} (h : tickBatch n s = .error e) :
    frameOf n s = .error e := by
  rw [frameOf, h]

/-- A frame ends only after its keypad reset (R326). -/
theorem frameOf_ok {n : Nat} {s t : State} (h : frameOf n s = .ok t) :
    ∃ u, tickBatch n s = .ok u ∧ t = keypadReset (decrementTimers u) := by
  unfold frameOf at h
  split at h <;> cases h
  exact ⟨_, ‹_›, rfl⟩

/-- Settles O58: the batch follows the first tick's result, and a frame that ends has gone through the decrement and the
keypad reset; a tick that waits has changed nothing. -/
theorem frameEndsBatchThenDecrements : Obligations.FrameEndsBatchThenDecrements := by
  refine ⟨fun n s f hfail => ?_, fun n s hwait => ?_, fun s => rfl, fun n s d hd hne => ?_, fun n s t h k => ?_⟩
  · exact frameOf_of_tickBatch_error (tickBatch_of_error (tickResult_eq_error_iff.1 hfail) n)
  · have htick := tickResult_eq_ok_iff.1 hwait
    obtain ⟨hsame, -⟩ := waitTickChangesNothing s _ htick
    rw [hsame] at htick
    exact frameOf_of_tickBatch (tickBatch_of_wait htick n)
  · rw [frameOf, tickBatch_of_ne_wait (tickResult_eq_ok_iff.1 hd) hne n, frameOf]
  · obtain ⟨u, -, rfl⟩ := frameOf_ok h
    exact keypadReset_jp _ k

end Sys2Proof.Machine
end
